-- ==== Sys2Proof/Word.lean ====
section
/-!
DEFINITION. The words of the Hamming (7,4) syndrome decoder (spec/00_scope.md R7 to R10): their widths, and the two
conversions between a sequence of bits and a word. Element `k` of a sequence is bit `k` of its word (R9). The widths are the
fixed parameters of R7: blocks of N = 7 bits, nibbles of K = 4, syndromes of R = 3.
-/

namespace Sys2Proof

/-- One bit (R8). -/
abbrev Bit := Bool

/-- A received or corrected block `r[6:0]` (R8, R9). -/
abbrev Block := BitVec 7

/-- A data nibble `d[3:0]` (R8, R9). -/
abbrev Nibble := BitVec 4

/-- A syndrome `s[2:0]`; its value `s0 + 2*s1 + 4*s2` is its `toNat` (R9, 30_encoding R64). -/
abbrev Syndrome := BitVec 3

/-- A position code: 0..6 name a block position, 7 is NONE (30_encoding R63). -/
abbrev PosCode := BitVec 3

/-- The 9-bit step input word `W[8:0]` (30_encoding R60). -/
abbrev StepWord := BitVec 9

/-- A symbol a host may hand to a stream call: any number; only 0 and 1 are bits (60_exceptions R152). -/
abbrev Symbol := Nat

/-- The value of a sequence of bits, element `k` weighing `2^k` (R9). -/
def bitsValue : List Bit → Nat
  | [] => 0
  | b :: bs => b.toNat + 2 * bitsValue bs

/-- The `n`-bit word of a sequence of bits, element `k` at bit `k` (R9). -/
def packBits (n : Nat) (bs : List Bit) : BitVec n := BitVec.ofNat n (bitsValue bs)

/-- The sequence of bits of a word, bit `k` at element `k` (R9). -/
def unpackBits {n : Nat} (w : BitVec n) : List Bit := (List.range n).map w.getLsbD

end Sys2Proof
end

