-- ==== Sys2Proof/Config.lean ====
section
/-!
DEFINITION. What is fixed when the block is built (spec/00_scope.md R7, spec/10_state.md R20 to R25), and the fault codes
(spec/60_exceptions.md R151), which construction already uses. The values (the four parity blocks, G, H, the table, the
default parameters) are computed in Sys2Proof/Machine/Construction.lean. The spec leaves no result undefined, so there is no
free value.
-/

namespace Sys2Proof

/-- A 4×3 parity block `P`: row `m` is `p<m>`, and `P[m][k]` is its bit `k` (10_state R20, R21). -/
structure ParityBlock where
  p0 : BitVec 3
  p1 : BitVec 3
  p2 : BitVec 3
  p3 : BitVec 3
  deriving DecidableEq, Repr

/-- The names of the four admissible parity blocks (40_code_definition R90): the range of the parameter `PARITY_P`. An
inconsistent configuration cannot be written down (R91). -/
inductive ParityP where
  | pA
  | pB
  | pC
  | pD
  deriving DecidableEq, Repr

/-- A 4×7 generator matrix: row `m` is `g<m>`, and `G[m][j]` is its bit `j` (10_state R20). -/
structure GenMatrix where
  g0 : BitVec 7
  g1 : BitVec 7
  g2 : BitVec 7
  g3 : BitVec 7
  deriving DecidableEq, Repr

/-- A 3×7 parity-check matrix: row `k` is `h<k>`, and `H[k][j]` is its bit `j` (10_state R22). -/
structure CheckMatrix where
  h0 : BitVec 7
  h1 : BitVec 7
  h2 : BitVec 7
  deriving DecidableEq, Repr

/-- An 8-entry table of position codes, indexed by the syndrome value (10_state R24). -/
abbrev SynTable := Vector PosCode 8

/-- The code-definition constants of one block (10_state R20 to R25). -/
structure CodeDef where
  g : GenMatrix
  h : CheckMatrix
  synTable : SynTable
  deriving DecidableEq, Repr

/-- The parameters of one block (00_scope R7). -/
structure Config where
  /-- `PARITY_P`. -/
  parity : ParityP
  /-- `LANES`, at least 1 (42_stream R137). -/
  lanes : Nat
  /-- `LATENCY`, at least 1; informative only (70_reset_and_hazards R186). -/
  latency : Nat
  deriving DecidableEq, Repr

/-- Which construction check failed: the info of fault code 3 (60_exceptions R151, R154). -/
inductive ConstructionCheck where
  /-- Check 1: `G · Hᵗ = 0` (40_code_definition R84). -/
  | orthogonality
  /-- Check 2: the columns of `H` are pairwise distinct and nonzero (40_code_definition R85). -/
  | distinctColumns
  deriving DecidableEq, Repr

/-- A recorded fault: its code with the info recorded beside it (60_exceptions R150, R151). -/
inductive FaultCode where
  /-- Code 1, `INVALID_SYMBOL`: the index of the first element outside 0 and 1 (R152). -/
  | invalidSymbol (index : Nat)
  /-- Code 2, `INTERNAL_INVARIANT`: the nonzero syndrome value whose table entry is NONE (R153). -/
  | internalInvariant (sv : Syndrome)
  /-- Code 3, `CONSTRUCTION_INCONSISTENCY`: the check that failed (R154). -/
  | constructionInconsistency (check : ConstructionCheck)
  /-- Code 4, `UNWRITTEN_OUTPUT_READ` (R155). -/
  | unwrittenOutputRead
  deriving DecidableEq, Repr

end Sys2Proof
end

