-- ==== Sys2Proof/Syntax.lean ====
section
/-!
DEFINITION. What a host can ask of the block: the three transactions of spec/opcode_table.json (`Instr`), the lines of a
transaction program (spec/30_encoding.md R69), and the assembler's source lines with their operand expressions (R70).
-/

namespace Sys2Proof

/-- The transactions of the block, one constructor per row of the opcode table (30_encoding R65). The `x` bits of RESET
and IDLE are ignored (R66), so neither carries an operand. -/
inductive Instr where
  /-- RESET: `1xxxxxxxx` (70_reset_and_hazards R180). -/
  | reset
  /-- DECODE: `01rrrrrrr`, operand `r = in_block` (41_decode R107). -/
  | decode (r : Block)
  /-- IDLE: `00xxxxxxx` (41_decode R108). -/
  | idle
  deriving DecidableEq, Repr

/-- One line of a transaction program as the host executes it (30_encoding R69): a step with its input word, or one of the
two host actions. -/
inductive Line where
  /-- One step of the block with this step input word. -/
  | word (w : StepWord)
  /-- The host action READ (42_stream R141). -/
  | read
  /-- The host's stream call STREAM (30_encoding R71), its symbols not yet validated. -/
  | stream (xs : List Symbol)
  deriving DecidableEq, Repr

/-- A `<nibble>` operand of `cw(...)`: a hex word, or the sequence `[d0,d1,d2,d3]` (30_encoding R70). -/
inductive NibbleExpr where
  | hex (n : Nat)
  | seq (ds : List Symbol)
  deriving DecidableEq, Repr

/-- A `<block>` operand: a hex word, the sequence `[r0,...,r6]` (30_encoding R69), or an assembler-time expression (R70). -/
inductive BlockExpr where
  | hex (n : Nat)
  | seq (rs : List Symbol)
  /-- `cw(<nibble>)`: the codeword of a nibble. -/
  | cw (d : NibbleExpr)
  /-- `<block> ^ e(<p>)`: the block with bit `p` flipped. -/
  | flip (b : BlockExpr) (p : Nat)
  deriving DecidableEq, Repr

/-- A source line of a transaction program (30_encoding R69, R72: no other mnemonic exists). -/
inductive SrcLine where
  | reset
  | idle
  | decode (b : BlockExpr)
  | read
  | stream (xs : List Symbol)
  deriving DecidableEq, Repr

/-- The tokens of a source line. -/
inductive Token where
  /-- A word of letters: a mnemonic, `cw` or `e`. -/
  | name (cs : List Char)
  /-- A decimal number. -/
  | num (n : Nat)
  /-- A hexadecimal number written `0x..`. -/
  | hexNum (n : Nat)
  /-- One punctuation character: `[ ] , ( ) ^`. -/
  | punct (c : Char)
  deriving DecidableEq, Repr

/-- Why the assembler rejects a source line. -/
inductive AsmError where
  /-- A hex block outside `0x00`..`0x7F`. -/
  | blockOutOfRange
  /-- A block sequence that is not seven bits. -/
  | blockNotSevenBits
  /-- A hex nibble outside `0x0`..`0xF`. -/
  | nibbleOutOfRange
  /-- A nibble sequence that is not four bits. -/
  | nibbleNotFourBits
  /-- `e(p)` with `p` outside 0..6. -/
  | flipOutOfRange
  /-- The text holds a character that begins no token. -/
  | badCharacter
  /-- The tokens form no source line. -/
  | badLine
  deriving DecidableEq, Repr

end Sys2Proof
end

