-- ==== Sys2Proof/WellFormed.lean ====
section
/-!
DEFINITION. Which terms of the syntax are well formed. Every transaction is (spec/30_encoding.md R66: no step word is
illegal). The checks are on the assembler's operands (R69, R70) and on the parameters (spec/00_scope.md R7).
-/

namespace Sys2Proof

/-- Every transaction is well formed: RESET and IDLE have no operand, and all 128 blocks are valid DECODE operands (R66). -/
def Instr.wf : Instr → Bool
  | .reset => true
  | .decode _ => true
  | .idle => true

/-- A symbol is a bit when it is 0 or 1. -/
def isBit (x : Symbol) : Bool := x == 0 || x == 1

/-- The element of a sequence as a bit; used on symbols that `isBit` accepts. -/
def symbolBit (x : Symbol) : Bit := x == 1

/-- A nibble operand is `0x0`..`0xF` or four bits (R70). -/
def NibbleExpr.wf : NibbleExpr → Bool
  | .hex n => n < 16
  | .seq ds => ds.length == 4 && ds.all isBit

/-- A block operand is `0x00`..`0x7F`, seven bits, the codeword of a nibble, or a block with a flip at 0..6 (R69, R70). -/
def BlockExpr.wf : BlockExpr → Bool
  | .hex n => n < 128
  | .seq rs => rs.length == 7 && rs.all isBit
  | .cw d => d.wf
  | .flip b p => b.wf && p < 7

/-- A source line is well formed when its block operand is. The symbols of a STREAM are checked when it runs (R71). -/
def SrcLine.wf : SrcLine → Bool
  | .reset => true
  | .idle => true
  | .decode b => b.wf
  | .read => true
  | .stream _ => true

/-- `LANES` and `LATENCY` are at least 1 (spec/92_eei_decisions.md, the OPEN parameters). -/
def Config.wf (c : Config) : Bool := 1 ≤ c.lanes && 1 ≤ c.latency

end Sys2Proof
end

