-- ==== Sys2Proof/Decode.lean ====
section
/-!
DEFINITION. The step input word's fields, decoder and encoder (spec/30_encoding.md R60, R61, R65 to R69), and the opcode
table's rows as mask and match. Every word of nine bits selects exactly one transaction; only a number that is no 9-bit word
is rejected, by name.
-/

namespace Sys2Proof

/-- `W[8]`, the reset request (R60). -/
def wordRst (w : StepWord) : Bit := w.getLsbD 8

/-- `W[7]`, block present (R60). -/
def wordInValid (w : StepWord) : Bit := w.getLsbD 7

/-- `W[6:0]`, the received block: `W[k] = rk` (R60). -/
def wordInBlock (w : StepWord) : Block := w.extractLsb' 0 7

/-- The received data bits `D = r[3:0]` (R61). -/
def blockData (r : Block) : Nibble := r.extractLsb' 0 4

/-- The received parity bits `Q = r[6:4]` (R61). -/
def blockParity (r : Block) : BitVec 3 := r.extractLsb' 4 3

/-- The step input word of three input signals (R60). -/
def stepWord (rst inValid : Bit) (inBlock : Block) : StepWord :=
  BitVec.ofBool rst ++ BitVec.ofBool inValid ++ inBlock

/-- The transaction a step input word selects: `rst` has priority, then `in_valid` (R65). -/
def decode (w : StepWord) : Instr :=
  if wordRst w then .reset
  else if wordInValid w then .decode (wordInBlock w)
  else .idle

/-- The word of a transaction as the assembler writes it: RESET is `0x100`, IDLE is `0x000`, DECODE is `0x080 | r` (R69). -/
def encode : Instr → StepWord
  | .reset => 0x100#9
  | .decode r => 0x080#9 ||| r.setWidth 9
  | .idle => 0x000#9

/-- The opcode table's mask of a transaction: the bits that select it (R65). -/
def rowMask : Instr → StepWord
  | .reset => 0x100#9
  | .decode _ => 0x180#9
  | .idle => 0x180#9

/-- The opcode table's match of a transaction (R65). -/
def rowMatch : Instr → StepWord
  | .reset => 0x100#9
  | .decode _ => 0x080#9
  | .idle => 0x000#9

/-- A word selects a transaction's row when its masked bits are the row's match (R65). -/
def selects (w : StepWord) (i : Instr) : Bool := w &&& rowMask i == rowMatch i

/-- The bits of the word that a transaction uses; the others are the `x` bits, which have no effect (R65, R66). -/
def usedMask : Instr → StepWord
  | .reset => 0x100#9
  | .decode _ => 0x1FF#9
  | .idle => 0x180#9

/-- Why a number is no step input word. -/
inductive DecodeError where
  /-- A bit above `W[8]` is set; every step word is 9 bits (R68). -/
  | widerThanNineBits
  deriving DecidableEq, Repr

/-- The decoder on any number: a number with a bit above `W[8]` is no step word and is rejected (R60, R68). -/
def decodeNumber (w : Nat) : Except DecodeError Instr :=
  if w < 2 ^ 9 then .ok (decode (BitVec.ofNat 9 w)) else .error .widerThanNineBits

/-- The instruction of a table row's bits. A row is one 9-bit word, so the number of bits given adds nothing. -/
def decodeTableWord (_nbits w : Nat) : Option Instr :=
  match decodeNumber w with
  | .ok i => some i
  | .error _ => none

end Sys2Proof
end

