-- ==== Sys2Proof/Machine/Construction.lean ====
section
/-!
DEFINITION. GF(2) arithmetic (spec/00_scope.md R11) and the construction of the code-definition constants with its two
checks (spec/40_code_definition.md R80 to R85, R90, R91), which happens once, before any step exists.
-/

namespace Sys2Proof.Machine

/-- The XOR of all bits of a word (R11). -/
def parity {n : Nat} (w : BitVec n) : Bit := (List.range n).foldl (fun acc k => acc ^^ w.getLsbD k) false

/-- The position code NONE, "no error" (30_encoding R63). -/
def posNone : PosCode := 7#3

/-- The four admissible parity blocks (40_code_definition R90). A row written `110` there has bits 0 and 1 set (R9). -/
def parityRows : ParityP → ParityBlock
  | .pA => ⟨0b011#3, 0b101#3, 0b110#3, 0b111#3⟩
  | .pB => ⟨0b011#3, 0b111#3, 0b110#3, 0b101#3⟩
  | .pC => ⟨0b110#3, 0b101#3, 0b011#3, 0b111#3⟩
  | .pD => ⟨0b110#3, 0b111#3, 0b011#3, 0b101#3⟩

/-- The parameters' default values (00_scope R7). -/
def defaultConfig : Config := { parity := .pA, lanes := 1, latency := 1 }

/-- The number of a recorded fault, 0 for none (60_exceptions R151). -/
def faultNumber : Option FaultCode → Nat
  | none => 0
  | some (.invalidSymbol _) => 1
  | some (.internalInvariant _) => 2
  | some (.constructionInconsistency _) => 3
  | some .unwrittenOutputRead => 4

/-- Build `G = [I₄ | P]`: row `m` has bit `m` set, and `P[m][k]` at bit `4 + k` (R81). -/
def buildG (p : ParityBlock) : GenMatrix :=
  { g0 := p.p0 ++ 0b0001#4, g1 := p.p1 ++ 0b0010#4, g2 := p.p2 ++ 0b0100#4, g3 := p.p3 ++ 0b1000#4 }

/-- Row `k` of `H = [Pᵗ | I₃]`: bit `j` is `P[j][k]` for `j` in 0..3, and bit `4 + k` is set (R82). -/
def buildHRow (p : ParityBlock) (k : Nat) : BitVec 7 :=
  (1#3 <<< k) ++ packBits 4 [p.p0.getLsbD k, p.p1.getLsbD k, p.p2.getLsbD k, p.p3.getLsbD k]

/-- Build `H` (R82). -/
def buildH (p : ParityBlock) : CheckMatrix :=
  { h0 := buildHRow p 0, h1 := buildHRow p 1, h2 := buildHRow p 2 }

/-- Column `i` of `H` as a syndrome: `(H[0][i], H[1][i], H[2][i])`, the first of weight 1 (10_state R23). -/
def column (h : CheckMatrix) (i : Nat) : Syndrome :=
  BitVec.ofBool (h.h2.getLsbD i) ++ BitVec.ofBool (h.h1.getLsbD i) ++ BitVec.ofBool (h.h0.getLsbD i)

/-- Build `SYN_TABLE` from the columns of `H`: every entry NONE, then position `i` at the value of column `i`, for `i` from
0 to 6 in order (R83). -/
def buildSynTable (h : CheckMatrix) : SynTable :=
  (List.range 7).foldl
    (fun t i => t.set (column h i).toNat (BitVec.ofNat 3 i) (column h i).isLt)
    (Vector.replicate 8 posNone)

/-- The constants of a parity block, in the order of R80: `G`, `H`, `SYN_TABLE`. -/
def buildCode (p : ParityBlock) : CodeDef :=
  { g := buildG p, h := buildH p, synTable := buildSynTable (buildH p) }

/-- Check 1: `parity(G[m] AND H[k]) = 0` for every row of both (R84). -/
def orthogonal (g : GenMatrix) (h : CheckMatrix) : Bool :=
  [g.g0, g.g1, g.g2, g.g3].all fun gm => [h.h0, h.h1, h.h2].all fun hk => !parity (gm &&& hk)

/-- Check 2: the 7 columns of `H` are pairwise distinct and nonzero (R85). -/
def columnsDistinct (h : CheckMatrix) : Bool :=
  let cols := (List.range 7).map (column h)
  cols.Nodup && cols.all (· != 0#3)

/-- The construction checks on constants however built: the first that fails is the fault's info (R91, R154). -/
def checkCode (c : CodeDef) : Except FaultCode CodeDef :=
  if !orthogonal c.g c.h then .error (.constructionInconsistency .orthogonality)
  else if !columnsDistinct c.h then .error (.constructionInconsistency .distinctColumns)
  else .ok c

/-- Construction from a parity block: build, then check (R80). On an error no block exists (R91). -/
def construct (p : ParityBlock) : Except FaultCode CodeDef := checkCode (buildCode p)

/-- The constants of a block built with these parameters. By R90 construction succeeds for all four. -/
def configCode (c : Config) : CodeDef := buildCode (parityRows c.parity)

end Sys2Proof.Machine
end

