-- ==== Sys2Proof/Machine/Datapath.lean ====
section
/-!
DEFINITION. The decode datapath, stage by stage (spec/41_decode.md R100 to R106), for any constants: a wrongly built table
faults, it does not pass a block through (R103).
-/

namespace Sys2Proof.Machine

/-- The syndrome decoder: `s_k = parity(r AND H[k])`, `syn = {s2, s1, s0}` (R100). -/
def syndrome (h : CheckMatrix) (r : Block) : Syndrome :=
  BitVec.ofBool (parity (r &&& h.h2)) ++ BitVec.ofBool (parity (r &&& h.h1)) ++ BitVec.ofBool (parity (r &&& h.h0))

/-- `ROM(SYN_TABLE, sv)`: every index is in range, and the read has no effect (20_memory R41, R47). -/
def romRead (t : SynTable) (sv : Syndrome) : PosCode := t[sv.toNat]'sv.isLt

/-- The zero test and the table lookup: a zero syndrome gives NONE without the table (R101, R102). -/
def errorPosition (t : SynTable) (sv : Syndrome) : PosCode :=
  if sv = 0#3 then posNone else romRead t sv

/-- `onehot7(p)`: the word whose only 1 is bit `p` for `p` in 0..6, and 0 for NONE (00_scope R10). -/
def onehot7 (p : PosCode) : Block := if p = posNone then 0#7 else 1#7 <<< p.toNat

/-- The bit-flip corrector (R104). -/
def bitFlip (r : Block) (p : PosCode) : Block := r ^^^ onehot7 p

/-- The data extractor: the first 4 bits of the corrected block (R105). -/
def extract (c : Block) : Nibble := blockData c

/-- `Decode7(r)`: one block through the stages, a nibble or the fault INTERNAL_INVARIANT (R106). -/
def decode7 (c : CodeDef) (r : Block) : Except FaultCode Nibble :=
  let sv := syndrome c.h r
  let pos := errorPosition c.synTable sv
  if sv ≠ 0#3 ∧ pos = posNone then .error (.internalInvariant sv)
  else .ok (extract (bitFlip r pos))

end Sys2Proof.Machine
end

