-- ==== Sys2Proof/Machine/State.lean ====
section
/-!
DEFINITION. The state of a whole run: the block's parameters and interface state (spec/10_state.md R25, R32 to R36), the
lanes' result queue (spec/42_stream.md R137), and the host's state beside it (R37). Also the reasons a step can stop, and
the state after reset.
-/

namespace Sys2Proof.Machine

/-- The state of a run. The constants `G`, `H` and `SYN_TABLE` are computed from `config` (`configCode`), which no operation
writes (10_state R25). -/
structure State where
  /-- The parameters the block was built with (00_scope R7). Constant: held here because a step has no other argument. -/
  config : Config
  /-- `out_data`, or unwritten (10_state R32). With LANES > 1: the head of `results`, or the result read last. -/
  outData : Option Nibble
  /-- `out_valid` (10_state R33): set by DECODE, cleared by IDLE and RESET. With LANES > 1 also cleared by the READ that empties
  `results`. -/
  outValid : Bit
  /-- `fault`: the recorded fault with its info (10_state R34). -/
  fault : Option FaultCode
  /-- The lanes' results, issued and not yet read, oldest first (42_stream R137). Used when LANES > 1. -/
  results : List Nibble
  /-- `host_in`: the bits of the stream still to be framed (10_state R37). -/
  hostIn : List Bit
  /-- `host_out`: the recovered bits read back so far (10_state R37). -/
  hostOut : List Bit
  /-- The number of pad bits the host added at encode time (10_state R37, 42_stream R136). -/
  hostPad : Nat
  /-- The framer has issued a DECODE and not yet its READ (42_stream R134). -/
  readDue : Bool
  /-- The lines of the transaction program still to be executed (30_encoding R69, 42_stream R142). -/
  script : List Line
  deriving DecidableEq, Repr

/-- Why the machine has no step. Each is a stop the spec itself describes. -/
inductive Fault where
  /-- Raised by DECODE and IDLE while a fault is recorded: they have no step, the block is stopped (60_exceptions R157).
  Safe: the machine stops where the spec has no step. -/
  | blockFaulted (f : FaultCode)
  /-- Raised by DECODE with LANES > 1 while LANES results are unread: no step until a READ (70_reset R187, 93 U14).
  Safe: the machine stops where the spec has no step. -/
  | resultQueueFull
  /-- Raised by `step` when the host has no line left: the run has ended (42_stream R142).
  Safe: there is no transaction to execute. -/
  | runEnded
  deriving DecidableEq, Repr

/-- Why a line is refused. -/
inductive Refusal where
  /-- Raised by `exec` alone, for an instruction that has no meaning yet. Safe. No arm raises it in this model. -/
  | notModelled (mnemonic : String)
  /-- Raised by the host action READ while a fault is recorded (60_exceptions R157: "READ is refused"). Safe. -/
  | readWhileFaulted (f : FaultCode)
  /-- Raised by the host's stream call while a fault is recorded: its DECODEs and READs are disabled (60_exceptions R157,
  R159). Safe. -/
  | streamWhileFaulted (f : FaultCode)
  deriving DecidableEq, Repr

/-- The state right after reset and at power-up (10_state R36, 70_reset_and_hazards R183), with the parameters' defaults
and a host that has nothing to do yet. -/
def State.reset : State where
  config := defaultConfig
  outData := none
  outValid := false
  fault := none
  results := []
  hostIn := []
  hostOut := []
  hostPad := 0
  readDue := false
  script := []

end Sys2Proof.Machine
end

