-- ==== Sys2Proof/Machine/Ops.lean ====
section
/-!
DEFINITION. The named operations on the state: the constants in force, raising a fault (spec/60_exceptions.md R150) and
leaving it (R158), and the reads and writes of the output registers and of the lanes' result queue.
-/

namespace Sys2Proof.Machine

/-- The code-definition constants of the block (10_state R25): the same in every state of a run. -/
def State.code (s : State) : CodeDef := configCode s.config

/-- More than one lane: the outputs are an in-order result queue (42_stream R137). -/
def State.multiLane (s : State) : Bool := 1 < s.config.lanes

/-- `raise F(info)`: the fault is recorded with its info and nothing else changes (60_exceptions R150). A fault already
recorded is kept (R158). -/
def raise (f : FaultCode) (s : State) : State :=
  match s.fault with
  | none => { s with fault := some f }
  | some _ => s

/-- The only way out of a faulted state, and the reset of the interface state (70_reset_and_hazards R180, 60_exceptions
R158): the reset values of 10_state R36. Constants and host state are not the reset's to write. -/
def clearInterface (s : State) : State :=
  { s with outValid := false, outData := none, fault := none, results := [] }

/-- Whether a DECODE has a place for its result: with LANES > 1, fewer than LANES results are unread (70_reset R187). -/
def State.canAccept (s : State) : Bool := !s.multiLane || s.results.length < s.config.lanes

/-- Deliver the result of a DECODE: into the output register (41_decode R107), or, with LANES > 1, at the end of the result
queue, whose head the outputs show (42_stream R137). -/
def putResult (d : Nibble) (s : State) : State :=
  if s.multiLane then
    { s with results := s.results ++ [d], outData := (s.results ++ [d]).head?, outValid := true }
  else { s with outData := some d, outValid := true }

/-- The outputs after a step without a block, whatever LANES is: `out_valid` is cleared and `out_data` held (41_decode R108,
10_state R33). It writes nothing else, so with LANES > 1 the queue keeps its results (DEDUCED, log entry 5). -/
def idleOutputs (s : State) : State := { s with outValid := false }

/-- The outputs after a READ: unchanged (42_stream R141), or, with LANES > 1, the queue popped (R137). No READ sets `out_valid`
(10_state R33); it is cleared when the queue empties, and the nibble read last then stays in `outData` (DESIGN CHOICE, log
entry 4, unsafe). -/
def popResult (s : State) : State :=
  if s.multiLane then
    { s with
      results := s.results.tail
      outValid := s.outValid && !s.results.tail.isEmpty
      outData := s.results.tail.head?.or s.outData }
  else s

end Sys2Proof.Machine
end

