-- ==== Sys2Proof/Machine/Transactions.lean ====
section
/-!
DEFINITION. The meanings of the block's transactions: RESET (spec/70_reset_and_hazards.md R180), DECODE and IDLE
(spec/41_decode.md R107, R108).
-/

namespace Sys2Proof.Machine

/-- RESET: enabled in every state, a faulted one too (R180, 60_exceptions R157). -/
def execReset (s : State) : Host.Outcome State Fault Refusal := .next (clearInterface s)

/-- A DECODE of the block `r` by a datapath with any constants: no step while a fault is recorded (R107, 60_exceptions R157)
or while the result queue is full (70_reset R187); otherwise the nibble is delivered, or the fault of the datapath is raised. -/
def decodeStep (c : CodeDef) (r : Block) (s : State) : Host.Outcome State Fault Refusal :=
  match s.fault with
  | some f => .fault (.blockFaulted f)
  | none =>
    if s.canAccept then
      match decode7 c r with
      | .ok d => .next (putResult d s)
      | .error f => .next (raise f s)
    else .fault .resultQueueFull

/-- DECODE: by the block's own datapath (R107). -/
def execDecode (r : Block) (s : State) : Host.Outcome State Fault Refusal := decodeStep s.code r s

/-- IDLE: no step while a fault is recorded; otherwise the outputs go idle (R108, 60_exceptions R157). -/
def execIdle (s : State) : Host.Outcome State Fault Refusal :=
  match s.fault with
  | some f => .fault (.blockFaulted f)
  | none => .next (idleOutputs s)

end Sys2Proof.Machine
end

