-- ==== Sys2Proof/Machine/Dispatch.lean ====
section
/-!
DEFINITION. Every transaction of spec/opcode_table.json to its meaning, one arm each.
-/

namespace Sys2Proof.Machine

def exec (i : Instr) (s : State) : Host.Outcome State Fault Refusal :=
  match i with
  | .reset => Sys2Proof.Machine.execReset s
  | .decode r => Sys2Proof.Machine.execDecode r s
  | .idle => Sys2Proof.Machine.execIdle s

end Sys2Proof.Machine
end

