-- ==== Sys2Proof/Machine/Reference.lean ====
section
/-!
DEFINITION. The reference functions of the spec, pure and not steps of the block (spec/00_scope.md R5): Encode4 and
EncodeStream (spec/40_code_definition.md R86, R88), DecodeStream (spec/42_stream.md R130 to R133).
-/

namespace Sys2Proof.Machine

/-- A row of a matrix, scaled by a bit. -/
def scaleRow (b : Bit) (row : Block) : Block := if b then row else 0#7

/-- `Encode4(d) = d · G (mod 2)`: the XOR of the rows `G[m]` with `d_m = 1` (R86). -/
def encode4 (g : GenMatrix) (d : Nibble) : Block :=
  scaleRow (d.getLsbD 0) g.g0 ^^^ scaleRow (d.getLsbD 1) g.g1 ^^^
    scaleRow (d.getLsbD 2) g.g2 ^^^ scaleRow (d.getLsbD 3) g.g3

/-- The index of the first symbol that is not 0 or 1, if any (42_stream R133). -/
def firstInvalid (xs : List Symbol) : Option Nat := xs.findIdx? fun x => !isBit x

/-- Validation of a whole input before anything is done with it: the bits, or INVALID_SYMBOL at the lowest index
(R133, 60_exceptions R152). -/
def validate (xs : List Symbol) : Except FaultCode (List Bit) :=
  match firstInvalid xs with
  | some i => .error (.invalidSymbol i)
  | none => .ok (xs.map symbolBit)

/-- Block `b` of a received stream: `x[7b .. 7b+6]` as a word (20_memory R43). -/
def streamBlock (bits : List Bit) (b : Nat) : Block := packBits 7 ((bits.drop (7 * b)).take 7)

/-- The nibbles of the whole blocks of a stream, in block order; the partial tail is dropped (42_stream R130, R131). -/
def decodeBlocks (c : CodeDef) (bits : List Bit) : Except FaultCode (List Nibble) :=
  (List.range (bits.length / 7)).mapM fun b => decode7 c (streamBlock bits b)

/-- `DecodeStream(x)` (42_stream R130). -/
def decodeStream (c : CodeDef) (xs : List Symbol) : Except FaultCode (List Bit) := do
  let bits ← validate xs
  let ds ← decodeBlocks c bits
  pure (ds.flatMap unpackBits)

/-- How many zero bits EncodeStream appends: `(4 - L mod 4) mod 4` (R88). -/
def padCount (len : Nat) : Nat := (4 - len % 4) % 4

/-- Nibble `b` of a padded stream: `x'[4b .. 4b+3]` as a word. -/
def streamNibble (bits : List Bit) (b : Nat) : Nibble := packBits 4 ((bits.drop (4 * b)).take 4)

/-- `EncodeStream(x)` (R88): validate, right-pad with zeros, encode nibble by nibble. -/
def encodeStream (g : GenMatrix) (xs : List Symbol) : Except FaultCode (List Bit) := do
  let bits ← validate xs
  let padded := bits ++ List.replicate (padCount bits.length) false
  pure ((List.range (padded.length / 4)).flatMap fun b => unpackBits (encode4 g (streamNibble padded b)))

end Sys2Proof.Machine
end

