-- ==== Sys2Proof/Machine/HostActions.lean ====
section
/-!
DEFINITION. What the host does beside the block: READ (spec/42_stream.md R141), the stream call and its framer (R134), the
choice of the next line, and the pad bookkeeping (R136, R139).
-/

namespace Sys2Proof.Machine

/-- The bits a READ of `d` appends to `host_out`: those of a valid output, else nothing (42_stream R141). -/
def collect (d : Nibble) (s : State) : State :=
  if s.outValid then { s with hostOut := s.hostOut ++ unpackBits d } else s

/-- READ: refused while a fault is recorded (60_exceptions R157); a read of an unwritten output raises its fault (R155);
otherwise a valid output is collected (42_stream R141) and, with LANES > 1, the queue popped (R137; that a READ of an output
that is not valid pops too is the model's choice, log entry 4). -/
def hostRead (s : State) : Host.Outcome State Fault Refusal :=
  match s.fault with
  | some f => .refused (.readWhileFaulted f)
  | none =>
    match s.outData with
    | none => .next (raise .unwrittenOutputRead s)
    | some d => .next (popResult (collect d s))

/-- The stream call: the whole input is validated before anything is issued (R133); then its whole blocks are the framer's to
issue, the partial tail dropped (R131, R134). -/
def hostStream (xs : List Symbol) (s : State) : Host.Outcome State Fault Refusal :=
  match s.fault with
  | some f => .refused (.streamWhileFaulted f)
  | none =>
    match validate xs with
    | .error f => .next (raise f s)
    | .ok bits => .next { s with hostIn := bits.take (7 * (bits.length / 7)) }

/-- The host's next line and the state once it is issued: the framer's READ after its DECODE, else the framer's next whole
block, else the next line of the program (R134, R142). None when the host has nothing left. -/
def fetch (s : State) : Option (Line × State) :=
  if s.readDue then some (.read, { s with readDue := false })
  else if 7 ≤ s.hostIn.length then
    some (.word (encode (.decode (packBits 7 (s.hostIn.take 7)))),
      { s with hostIn := s.hostIn.drop 7, readDue := true })
  else
    match s.script with
    | [] => none
    | l :: rest => some (l, { s with script := rest })

/-- Put a step input word where the next step takes its line from: first in the program, the framer at rest. -/
def driveWord (w : StepWord) (s : State) : State :=
  { s with script := .word w :: s.script, hostIn := [], readDue := false }

/-- A host that encodes a message and streams the codewords, keeping the pad count out of band (40_code R88, 42_stream R136).
A message with an invalid symbol raises the fault of EncodeStream, and nothing is sent. -/
def hostSend (m : List Symbol) (s : State) : State :=
  match encodeStream s.code.g m with
  | .ok c => { s with script := s.script ++ [.stream (c.map Bool.toNat)], hostPad := padCount m.length }
  | .error f => raise f s

/-- The message a host takes from what it read: the trailing pad bits stripped (42_stream R136, R139). -/
def hostMessage (s : State) : List Bit := s.hostOut.take (s.hostOut.length - s.hostPad)

end Sys2Proof.Machine
end

