-- ==== Sys2Proof/Machine/Lines.lean ====
section
/-!
DEFINITION. Executing one line of a transaction program (spec/30_encoding.md R69): a step word is decoded and its transaction
executed; READ and STREAM are host actions, not steps of the block.
-/

namespace Sys2Proof.Machine

/-- Execute one line (R69). -/
def runLine (l : Line) (s : State) : Host.Outcome State Fault Refusal :=
  match l with
  | .word w => exec (decode w) s
  | .read => hostRead s
  | .stream xs => hostStream xs s

/-- The host's next line, executed; a host with no line left has ended its run (42_stream R142). -/
def runNext (s : State) : Host.Outcome State Fault Refusal :=
  match fetch s with
  | none => .fault .runEnded
  | some (l, s') => runLine l s'

end Sys2Proof.Machine
end

