-- ==== Sys2Proof/Machine/Step.lean ====
section
/-!
DEFINITION. One step of a run (spec/42_stream.md R142): the host's next line is executed.
-/

namespace Sys2Proof.Machine

/-- One step: the host's next line, executed. -/
def step (s : State) : Host.Outcome State Fault Refusal := runNext s

/-- The state with a step input word as the host's next line (a table row is one 9-bit word, so the number of bits given adds
nothing). -/
def State.withFetchWord (s : State) (_nbits w : Nat) : State := driveWord (BitVec.ofNat 9 w) s

end Sys2Proof.Machine
end

