-- ==== Sys2Proof/Machine/Assemble.lean ====
section
/-!
DEFINITION. The assembler of transaction programs (spec/30_encoding.md R69 to R72): operand expressions, source lines, the
expansion of STREAM, and the text of a line.
-/

namespace Sys2Proof.Machine

/-- The value of a nibble operand (R70). -/
def evalNibble (e : NibbleExpr) : Except AsmError Nibble :=
  match e with
  | .hex n => if n < 16 then .ok (BitVec.ofNat 4 n) else .error .nibbleOutOfRange
  | .seq ds => if e.wf then .ok (packBits 4 (ds.map symbolBit)) else .error .nibbleNotFourBits

/-- The value of a block operand; `cw` takes the generator of the block in use (R69, R70). -/
def evalBlock (g : GenMatrix) : BlockExpr → Except AsmError Block
  | .hex n => if n < 128 then .ok (BitVec.ofNat 7 n) else .error .blockOutOfRange
  | .seq rs =>
    if (BlockExpr.seq rs).wf then .ok (packBits 7 (rs.map symbolBit)) else .error .blockNotSevenBits
  | .cw d => (evalNibble d).map (encode4 g)
  | .flip b p =>
    match evalBlock g b with
    | .error e => .error e
    | .ok r => if p < 7 then .ok (r ^^^ onehot7 (BitVec.ofNat 3 p)) else .error .flipOutOfRange

/-- A source line to the line the host executes (R69). -/
def assembleLine (g : GenMatrix) : SrcLine → Except AsmError Line
  | .reset => .ok (.word (encode .reset))
  | .idle => .ok (.word (encode .idle))
  | .decode b => (evalBlock g b).map fun r => .word (encode (.decode r))
  | .read => .ok .read
  | .stream xs => .ok (.stream xs)

/-- A whole source program, in order. -/
def assemble (g : GenMatrix) (src : List SrcLine) : Except AsmError (List Line) := src.mapM (assembleLine g)

/-- The lines STREAM stands for: INVALID_SYMBOL and no DECODE, or a DECODE and a READ for each whole block (R71). -/
def expandStream (xs : List Symbol) : Except FaultCode (List Line) :=
  match validate xs with
  | .error f => .error f
  | .ok bits => .ok ((List.range (bits.length / 7)).flatMap fun b =>
      [.word (encode (.decode (streamBlock bits b))), .read])

/-- The value of a hexadecimal digit. -/
def hexDigit (c : Char) : Option Nat :=
  if c.isDigit then some (c.toNat - 48)
  else if 'a' ≤ c ∧ c ≤ 'f' then some (c.toNat - 87)
  else if 'A' ≤ c ∧ c ≤ 'F' then some (c.toNat - 55)
  else none

/-- The value of digits read from the left in a base. -/
def digitsValue (base : Nat) (ds : List Nat) : Nat := ds.foldl (fun n d => base * n + d) 0

/-- The token of a run of letters and digits. -/
def wordToken (cs : List Char) : Except AsmError Token :=
  match cs with
  | '0' :: 'x' :: h =>
    match h.mapM hexDigit with
    | some (d :: ds) => .ok (.hexNum (digitsValue 16 (d :: ds)))
    | _ => .error .badCharacter
  | cs =>
    if cs.all Char.isDigit then .ok (.num (digitsValue 10 (cs.map fun c => c.toNat - 48)))
    else if cs.all Char.isAlpha then .ok (.name cs)
    else .error .badCharacter

/-- The token of the run read so far, if there is one, before the tokens after it. -/
def flushWord (run : List Char) (rest : List Token) : Except AsmError (List Token) :=
  if run.isEmpty then .ok rest else (wordToken run).map (· :: rest)

/-- The tokens of a line's text, `run` being the letters and digits read so far; `;` starts a comment (R69). -/
def lexFrom (run : List Char) : List Char → Except AsmError (List Token)
  | [] => flushWord run []
  | c :: cs =>
    if c = ';' then flushWord run []
    else if c.isAlphanum then lexFrom (run ++ [c]) cs
    else if c.isWhitespace then
      match lexFrom [] cs with
      | .ok ts => flushWord run ts
      | .error e => .error e
    else if c ∈ ['[', ']', ',', '(', ')', '^'] then
      match lexFrom [] cs with
      | .ok ts => flushWord run (.punct c :: ts)
      | .error e => .error e
    else .error .badCharacter

/-- The rest of a sequence after its `[`, when it is not empty, and the tokens after its `]`. -/
def parseItems : List Token → Option (List Symbol × List Token)
  | .num n :: .punct ']' :: rest => some ([n], rest)
  | .num n :: .punct ',' :: rest => (parseItems rest).map fun (ns, ts) => (n :: ns, ts)
  | _ => none

/-- A sequence `[x0, x1, ...]`, and the tokens after it. -/
def parseSeq : List Token → Option (List Symbol × List Token)
  | .punct '[' :: .punct ']' :: rest => some ([], rest)
  | .punct '[' :: rest => parseItems rest
  | _ => none

/-- A nibble operand, and the tokens after it (R70). -/
def parseNibble : List Token → Option (NibbleExpr × List Token)
  | .hexNum n :: rest => some (.hex n, rest)
  | ts => (parseSeq ts).map fun (ds, rest) => (.seq ds, rest)

/-- The flips `^ e(p)` after a block, to the end of the line (R70). -/
def parseFlips (b : BlockExpr) : List Token → Option BlockExpr
  | [] => some b
  | .punct '^' :: .name ['e'] :: .punct '(' :: .num p :: .punct ')' :: rest => parseFlips (.flip b p) rest
  | _ => none

/-- A block operand to the end of the line (R69, R70). -/
def parseBlock : List Token → Option BlockExpr
  | .hexNum n :: rest => parseFlips (.hex n) rest
  | .name ['c', 'w'] :: .punct '(' :: rest =>
    match parseNibble rest with
    | some (d, .punct ')' :: more) => parseFlips (.cw d) more
    | _ => none
  | ts =>
    match parseSeq ts with
    | some (rs, rest) => parseFlips (.seq rs) rest
    | none => none

/-- A source line from its tokens (R69, R72). -/
def parseTokens : List Token → Option SrcLine
  | [.name ['R', 'E', 'S', 'E', 'T']] => some .reset
  | [.name ['I', 'D', 'L', 'E']] => some .idle
  | [.name ['R', 'E', 'A', 'D']] => some .read
  | .name ['D', 'E', 'C', 'O', 'D', 'E'] :: rest => (parseBlock rest).map .decode
  | .name ['S', 'T', 'R', 'E', 'A', 'M'] :: rest =>
    match parseSeq rest with
    | some (xs, []) => some (.stream xs)
    | _ => none
  | _ => none

/-- The source line a line of text holds: none when it is blank or only a comment (R69). -/
def parseLine (text : List Char) : Except AsmError (Option SrcLine) :=
  match lexFrom [] text with
  | .error e => .error e
  | .ok [] => .ok none
  | .ok ts =>
    match parseTokens ts with
    | some l => .ok (some l)
    | none => .error .badLine

end Sys2Proof.Machine
end

