-- ==== Sys2Proof/Safety.lean ====
section
/-!
DEFINITION. Runs, their observation (spec/42_stream.md R142), the invariant every step keeps, and the terms of coding theory the
statements use: codewords, distance, admissible parity blocks, a change of the parity-check matrix's basis.
-/

namespace Sys2Proof.Machine

/-- The observation of a run: `(host_out, fault)`. The syndrome, the position and the output registers are no part of it
(42_stream R142, 41_decode R111). -/
def observation (s : State) : List Bit × Option FaultCode := (s.hostOut, s.fault)

/-- A run that ends unfaulted is a successful one (R142). -/
def State.safe (s : State) : Bool := s.fault.isNone

/-- A run is over at its first fault, or when the host has no line left (R142). -/
def State.runOver (s : State) : Bool := s.fault.isSome || (fetch s).isNone

/-- The state of a run after at most `n` steps: it stops when the run is over, or where the machine has no step. -/
def runFor : Nat → State → State
  | 0, s => s
  | n + 1, s =>
    if s.runOver then s
    else
      match step s with
      | .next t => runFor n t
      | .fault _ => s
      | .refused _ => s

/-- A run from `s` ends in `t`: some number of steps brings it there, and it is over. -/
def EndsIn (s t : State) : Prop := ∃ n, runFor n s = t ∧ t.runOver = true

/-- The faults a built block can record: codes 2 and 3 are unreachable (60_exceptions R151, R153, R154). -/
def reachableFault : Option FaultCode → Bool
  | none => true
  | some (.invalidSymbol _) => true
  | some (.internalInvariant _) => false
  | some (.constructionInconsistency _) => false
  | some .unwrittenOutputRead => true

/-- What the outputs show: with LANES = 1, a valid output is a written one; with LANES > 1, the result queue is at most LANES
long, its head, if it has one, is `out_data`, and an output is valid only when it has one (42_stream R137). -/
def outputsConsistent (s : State) : Bool :=
  if s.multiLane then
    s.results.length ≤ s.config.lanes && (!s.outValid || !s.results.isEmpty) &&
      (s.results.isEmpty || s.results.head? == s.outData)
  else s.results.isEmpty && (!s.outValid || s.outData.isSome)

/-- The framer at rest between blocks holds whole blocks only; between a DECODE and its READ the output is valid; and a
recorded fault leaves it nothing to issue (42_stream R134). -/
def framerConsistent (s : State) : Bool :=
  s.hostIn.length % 7 == 0 && (!s.readDue || s.outValid) &&
    (s.fault.isNone || (!s.readDue && s.hostIn.isEmpty))

/-- The invariant of a run. -/
def RunInv (s : State) : Prop :=
  s.config.wf = true ∧ outputsConsistent s = true ∧ framerConsistent s = true ∧
    reachableFault s.fault = true ∧ s.hostOut.length % 4 = 0

/-- A codeword of a parity-check matrix: its syndrome is 0 (00_scope glossary, 40_code_definition R89). -/
def isCodeword (h : CheckMatrix) (c : Block) : Bool := syndrome h c == 0#3

/-- The Hamming distance of two blocks: the number of positions in which they differ. -/
def distance (a b : Block) : Nat :=
  ((List.range 7).filter fun k => a.getLsbD k != b.getLsbD k).length

/-- `e(p)`: the error pattern with bit `p` set, for a position `p` in 0..6 (00_scope R10). -/
def errorAt (p : Fin 7) : Block := onehot7 (BitVec.ofNat 3 p)

/-- A parity block is admissible when its construction succeeds and it encodes `[1,0,1,0]` as the source says (40_code R90). -/
def admissible (p : ParityBlock) : Bool :=
  match construct p with
  | .ok c => encode4 c.g 0x5#4 == 0x55#7
  | .error _ => false

/-- A 3×3 binary matrix, row `k` of `A` being `a<k>` and `A[k][i]` its bit `i` (41_decode R113). -/
structure Basis3 where
  a0 : BitVec 3
  a1 : BitVec 3
  a2 : BitVec 3
  deriving DecidableEq, Repr

/-- Invertible over GF(2): no row is a sum of the others. -/
def Basis3.invertible (a : Basis3) : Bool :=
  a.a0 != 0#3 && a.a1 != 0#3 && a.a1 != a.a0 && a.a2 != 0#3 && a.a2 != a.a0 && a.a2 != a.a1 && a.a2 != a.a0 ^^^ a.a1

/-- One row of `A · H`: the XOR of the rows of `H` the row of `A` selects. -/
def combineRows (a : BitVec 3) (h : CheckMatrix) : BitVec 7 :=
  scaleRow (a.getLsbD 0) h.h0 ^^^ scaleRow (a.getLsbD 1) h.h1 ^^^ scaleRow (a.getLsbD 2) h.h2

/-- `A · H` (41_decode R113). -/
def changeBasis (a : Basis3) (h : CheckMatrix) : CheckMatrix :=
  { h0 := combineRows a.a0 h, h1 := combineRows a.a1 h, h2 := combineRows a.a2 h }

/-- The constants with another parity-check matrix, `SYN_TABLE` rebuilt from it (41_decode R113). -/
def withCheckMatrix (c : CodeDef) (h : CheckMatrix) : CodeDef := { c with h := h, synTable := buildSynTable h }

/-- A parity-check matrix with its rows in the opposite order: reading its syndrome tuple from the least significant bit is
reading the original's from the most significant one (41_decode R113). -/
def reverseRows (h : CheckMatrix) : CheckMatrix := { h0 := h.h2, h1 := h.h1, h2 := h.h0 }

/-- The nibble a block decodes to, where it does. -/
def decodesTo (c : CodeDef) (r : Block) (d : Nibble) : Bool :=
  match decode7 c r with
  | .ok d' => d' == d
  | .error _ => false

/-- The lines of a host that idles `k` steps before each block's DECODE and READ (42_stream R134: IDLE steps may stand
anywhere except between a DECODE and its READ). -/
def framedLines (blocks : List (Nat × Block)) : List Line :=
  blocks.flatMap fun (k, r) =>
    List.replicate k (.word (encode .idle)) ++ [.word (encode (.decode r)), .read]

/-- A host about to start: no fault, no unread result, no stream being framed. -/
def State.ready (s : State) : Bool := s.fault.isNone && s.results.isEmpty && s.hostIn.isEmpty && !s.readDue

/-- The state with another `LATENCY`. -/
def State.withLatency (n : Nat) (s : State) : State := { s with config := { s.config with latency := n } }

/-- The state with another `LANES`. -/
def State.withLanes (n : Nat) (s : State) : State := { s with config := { s.config with lanes := n } }

/-- A step's outcome with a function applied to its next state. -/
def mapNext (g : State → State) : Host.Outcome State Fault Refusal → Host.Outcome State Fault Refusal
  | .next t => .next (g t)
  | .fault f => .fault f
  | .refused r => .refused r

end Sys2Proof.Machine
end

