-- ==== Sys2Proof/Certificates/Slice0/Obligations.lean ====
section
/-!
DEFINITION. The statements for the provers, from the numbered rules of spec/. Each docstring names the rule it formalises.
`s.multiLane = false` says LANES = 1, the case whose rules the spec gives in full; the statements about LANES > 1 say which of
their clauses are the model's choice.
-/

open Sys2Proof Sys2Proof.Machine

/-! ### Encoding -/

/-- R60, R61: the fields of the step word and of the DECODE operand, bit by bit. -/
def Obligations.StepWordFields : Prop :=
  (∀ (rst inValid : Bit) (r : Block),
    wordRst (stepWord rst inValid r) = rst ∧ wordInValid (stepWord rst inValid r) = inValid ∧
      wordInBlock (stepWord rst inValid r) = r) ∧
  (∀ w : StepWord, ∀ k < 7, (wordInBlock w).getLsbD k = w.getLsbD k) ∧
  (∀ w : StepWord, wordInValid w = w.getLsbD 7 ∧ wordRst w = w.getLsbD 8) ∧
  ∀ r : Block, (∀ k < 4, (blockData r).getLsbD k = r.getLsbD k) ∧
    ∀ k < 3, (blockParity r).getLsbD k = r.getLsbD (4 + k)

/-- R65: each word selects exactly one transaction, by the masks and matches of the table; RESET has priority; the unused
bits have no effect. -/
def Obligations.WordsSelectTransactions : Prop :=
  ∀ w : StepWord,
    (w &&& 0x100#9 = 0x100#9 ↔ decode w = .reset) ∧
    (w &&& 0x180#9 = 0x080#9 ↔ decode w = .decode (w.extractLsb' 0 7)) ∧
    (w &&& 0x180#9 = 0x000#9 ↔ decode w = .idle) ∧
    (decode w = .reset ∨ decode w = .decode (w.extractLsb' 0 7) ∨ decode w = .idle) ∧
    (∀ inValid r, decode (stepWord true inValid r) = .reset) ∧
    ∀ w', w' &&& usedMask (decode w) = w &&& usedMask (decode w) → decode w' = decode w

/-- R66: no step word is illegal: in an unfaulted block with a place for a result, every word's transaction takes a step and
raises nothing. A number wider than the word is no step word (R68), and its rejection by name is the model's choice (log
entry 15). -/
def Obligations.NoStepWordIsIllegal : Prop :=
  (∀ (w : StepWord) (s : State), s.fault = none → s.canAccept = true →
    ∃ t, exec (decode w) s = .next t ∧ t.fault = none) ∧
  (∀ n < 512, decodeNumber n = .ok (decode (BitVec.ofNat 9 n))) ∧
  ∀ n, 512 ≤ n → decodeNumber n = .error .widerThanNineBits

/-- R65, R69: decoding an encoded transaction gives it back, with every operand at every value; and encoding a decoded word
gives back every bit the transaction uses. -/
def Obligations.DecodeEncodeAgree : Prop :=
  (∀ i : Instr, i.wf = true → decode (encode i) = i) ∧
  ∀ w : StepWord, encode (decode w) = w &&& usedMask (decode w)

/-- Words written out from the spec's encodings and programs (30_encoding R65, R69, R70; 95_test_vectors 2.6, L3-1 to L3-4)
decode to the transactions they stand for. -/
def Obligations.WrittenOutWordsDecode : Prop :=
  decode 0b1_0000_0000#9 = .reset ∧ decode 0b1_1101_0101#9 = .reset ∧
  decode 0b0_1101_0001#9 = .decode 0x51#7 ∧ decode 0b0_1101_0101#9 = .decode 0x55#7 ∧
  decode 0b0_1000_0011#9 = .decode 0x03#7 ∧ decode 0b0_1111_1111#9 = .decode 0x7F#7 ∧
  decode 0b0_0000_0000#9 = .idle ∧ decode 0b0_0101_0101#9 = .idle

/-! ### The code definition -/

/-- R20, R22, R23, R24 and 95_test_vectors 2.2: the default constants, the check-matrix rows and tables of all four parity blocks. -/
def Obligations.ConstantsOfEachParityBlock : Prop :=
  buildG (parityRows .pA) = ⟨0x31#7, 0x52#7, 0x64#7, 0x78#7⟩ ∧
  buildH (parityRows .pA) = ⟨0x1B#7, 0x2D#7, 0x4E#7⟩ ∧ buildH (parityRows .pB) = ⟨0x1B#7, 0x27#7, 0x4E#7⟩ ∧
  buildH (parityRows .pC) = ⟨0x1E#7, 0x2D#7, 0x4B#7⟩ ∧ buildH (parityRows .pD) = ⟨0x1E#7, 0x27#7, 0x4B#7⟩ ∧
  (List.range 7).map (column (buildH (parityRows .pA))) = [3#3, 5#3, 6#3, 7#3, 1#3, 2#3, 4#3] ∧
  (buildSynTable (buildH (parityRows .pA))).toList = [7#3, 4#3, 5#3, 0#3, 6#3, 1#3, 2#3, 3#3] ∧
  (buildSynTable (buildH (parityRows .pB))).toList = [7#3, 4#3, 5#3, 0#3, 6#3, 3#3, 2#3, 1#3] ∧
  (buildSynTable (buildH (parityRows .pC))).toList = [7#3, 4#3, 5#3, 2#3, 6#3, 1#3, 0#3, 3#3] ∧
  (buildSynTable (buildH (parityRows .pD))).toList = [7#3, 4#3, 5#3, 2#3, 6#3, 3#3, 0#3, 1#3]

/-- R81, R82: every entry of the matrices built from any parity block whatever. -/
def Obligations.MatricesAreSystematic : Prop :=
  ∀ p : ParityBlock,
    let rows := [p.p0, p.p1, p.p2, p.p3]
    let g := [(buildG p).g0, (buildG p).g1, (buildG p).g2, (buildG p).g3]
    let h := [(buildH p).h0, (buildH p).h1, (buildH p).h2]
    (∀ m < 4, ∀ j < 7, (g.getD m 0#7).getLsbD j =
      if j < 4 then decide (j = m) else (rows.getD m 0#3).getLsbD (j - 4)) ∧
    ∀ k < 3, ∀ j < 7, (h.getD k 0#7).getLsbD j =
      if j < 4 then (rows.getD j 0#3).getLsbD k else decide (j - 4 = k)

/-- R83, R85: when the columns are distinct and nonzero, entry 0 is NONE, the entry at a column's value is its position, and
every other entry is one of the seven positions, no position twice. -/
def Obligations.TableHoldsEachPosition : Prop :=
  ∀ h : CheckMatrix, columnsDistinct h = true →
    romRead (buildSynTable h) 0#3 = posNone ∧
    (∀ i < 7, romRead (buildSynTable h) (column h i) = BitVec.ofNat 3 i) ∧
    (∀ sv : Syndrome, sv ≠ 0#3 → ∃ i < 7, romRead (buildSynTable h) sv = BitVec.ofNat 3 i ∧ column h i = sv) ∧
    ∀ sv sv' : Syndrome, romRead (buildSynTable h) sv = romRead (buildSynTable h) sv' → sv = sv'

/-- R84, R85, R91: construction succeeds exactly when the columns of `H` are distinct and nonzero, and then gives the built
constants; otherwise it fails with CONSTRUCTION_INCONSISTENCY and the check that failed. Check 1 holds for every parity
block; constants that are not orthogonal fail it first. -/
def Obligations.ConstructionChecks : Prop :=
  (∀ p : ParityBlock, orthogonal (buildG p) (buildH p) = true) ∧
  (∀ p : ParityBlock, columnsDistinct (buildH p) = true → construct p = .ok (buildCode p)) ∧
  (∀ p : ParityBlock, columnsDistinct (buildH p) = false →
    construct p = .error (.constructionInconsistency .distinctColumns)) ∧
  (∀ c : CodeDef, orthogonal c.g c.h = false → checkCode c = .error (.constructionInconsistency .orthogonality)) ∧
  ∀ n : ParityP, construct (parityRows n) = .ok (buildCode (parityRows n))

/-- R90: the admissible parity blocks are exactly the four that are named, and they are four different ones. -/
def Obligations.AdmissibleParityBlocks : Prop :=
  (∀ p : ParityBlock, admissible p = true ↔ ∃ n : ParityP, p = parityRows n) ∧
  (∀ n n' : ParityP, parityRows n = parityRows n' → n = n') ∧
  encode4 (buildG (parityRows .pA)) 0x1#4 = 0x31#7 ∧ encode4 (buildG (parityRows .pC)) 0x1#4 = 0x61#7

/-- R86, and R87, which the spec marks as derived: the codeword bits, for any `G` by its columns, and written out for `P_A`;
`1010` encodes to `1010101`, `0000` and `1111` to the constant words, whatever the block. -/
def Obligations.EncoderParityEquations : Prop :=
  (∀ (g : GenMatrix) (d : Nibble), ∀ j < 7, (encode4 g d).getLsbD j =
    ((d.getLsbD 0 && g.g0.getLsbD j) ^^ (d.getLsbD 1 && g.g1.getLsbD j) ^^
      (d.getLsbD 2 && g.g2.getLsbD j) ^^ (d.getLsbD 3 && g.g3.getLsbD j))) ∧
  (∀ d : Nibble,
    let c := encode4 (buildG (parityRows .pA)) d
    (∀ k < 4, c.getLsbD k = d.getLsbD k) ∧
    c.getLsbD 4 = (d.getLsbD 0 ^^ d.getLsbD 1 ^^ d.getLsbD 3) ∧
    c.getLsbD 5 = (d.getLsbD 0 ^^ d.getLsbD 2 ^^ d.getLsbD 3) ∧
    c.getLsbD 6 = (d.getLsbD 1 ^^ d.getLsbD 2 ^^ d.getLsbD 3)) ∧
  ∀ n : ParityP, encode4 (buildG (parityRows n)) 0x5#4 = 0x55#7 ∧
    encode4 (buildG (parityRows n)) 0x0#4 = 0x00#7 ∧ encode4 (buildG (parityRows n)) 0xF#4 = 0x7F#7

/-- R89: for every parameter setting, a block is a codeword iff it encodes some nibble; the encoder is systematic, so it
gives 16 codewords; two different codewords differ in at least 3 positions, and some in exactly 3. -/
def Obligations.CodewordsAndDistance : Prop :=
  ∀ c : Config,
    (∀ r : Block, isCodeword (configCode c).h r = true ↔ ∃ d, encode4 (configCode c).g d = r) ∧
    (∀ d : Nibble, blockData (encode4 (configCode c).g d) = d) ∧
    (∀ d d' : Nibble, d ≠ d' → 3 ≤ distance (encode4 (configCode c).g d) (encode4 (configCode c).g d')) ∧
    ∃ d d' : Nibble, distance (encode4 (configCode c).g d) (encode4 (configCode c).g d') = 3

/-! ### The datapath -/

/-- R11, R100: the syndrome bit by bit for any `H`; it is linear; it is 0 exactly on codewords; a flip at position `i` of a
codeword gives column `i`; and the equations for `P_A`. -/
def Obligations.SyndromeEquations : Prop :=
  (∀ r : Block, parity r = (r.getLsbD 0 ^^ r.getLsbD 1 ^^ r.getLsbD 2 ^^ r.getLsbD 3 ^^ r.getLsbD 4 ^^
    r.getLsbD 5 ^^ r.getLsbD 6)) ∧
  (∀ (h : CheckMatrix) (r : Block), (syndrome h r).getLsbD 0 = parity (r &&& h.h0) ∧
    (syndrome h r).getLsbD 1 = parity (r &&& h.h1) ∧ (syndrome h r).getLsbD 2 = parity (r &&& h.h2)) ∧
  (∀ (h : CheckMatrix) (r e : Block), syndrome h (r ^^^ e) = syndrome h r ^^^ syndrome h e) ∧
  (∀ (c : Config) (r : Block), syndrome (configCode c).h r = 0#3 ↔ ∃ d, encode4 (configCode c).g d = r) ∧
  (∀ (c : Config) (d : Nibble) (p : Fin 7),
    syndrome (configCode c).h (encode4 (configCode c).g d ^^^ errorAt p) = column (configCode c).h p) ∧
  (∀ r : Block,
    let s := syndrome (buildH (parityRows .pA)) r
    s.getLsbD 0 = (r.getLsbD 0 ^^ r.getLsbD 1 ^^ r.getLsbD 3 ^^ r.getLsbD 4) ∧
    s.getLsbD 1 = (r.getLsbD 0 ^^ r.getLsbD 2 ^^ r.getLsbD 3 ^^ r.getLsbD 5) ∧
    s.getLsbD 2 = (r.getLsbD 1 ^^ r.getLsbD 2 ^^ r.getLsbD 3 ^^ r.getLsbD 6)) ∧
  buildH (parityRows .pA) = ⟨0x1B#7, 0x2D#7, 0x4E#7⟩ ∧
  syndrome (buildH (parityRows .pA)) 0x55#7 = 0#3 ∧ syndrome (buildH (parityRows .pA)) 0x51#7 = 6#3

/-- R103: with any table whatever, a nonzero syndrome whose entry is NONE is INTERNAL_INVARIANT with that syndrome; with the
constants of any parameter setting no block is; and a DECODE by a datapath with such a table records the fault and writes nothing else. -/
def Obligations.TableMissIsAFault : Prop :=
  (∀ (c : CodeDef) (r : Block), syndrome c.h r ≠ 0#3 → romRead c.synTable (syndrome c.h r) = posNone →
    decode7 c r = .error (.internalInvariant (syndrome c.h r))) ∧
  (∀ (c : Config) (r : Block), ∃ d, decode7 (configCode c) r = .ok d) ∧
  ∀ (c : CodeDef) (s : State) (r : Block), s.fault = none → s.canAccept = true → syndrome c.h r ≠ 0#3 →
    romRead c.synTable (syndrome c.h r) = posNone →
    decodeStep c r s = .next { s with fault := some (.internalInvariant (syndrome c.h r)) }

/-- R101, R102, R104, R105, R112: for every parameter setting, a block decodes to its data bits with the bit at the looked-up
position flipped; a zero syndrome flips nothing, and a flip in a parity position leaves the data bits alone. -/
def Obligations.CorrectorFlipsTheLookedUpBit : Prop :=
  ∀ (c : Config) (r : Block),
    let sv := syndrome (configCode c).h r
    let pos := romRead (configCode c).synTable sv
    (sv = 0#3 → decode7 (configCode c) r = .ok (blockData r)) ∧
    (sv ≠ 0#3 → decode7 (configCode c) r = .ok (blockData r ^^^ blockData (onehot7 pos))) ∧
    (sv ≠ 0#3 → 4 ≤ pos.toNat → decode7 (configCode c) r = .ok (blockData r)) ∧
    ∀ p : PosCode, distance r (bitFlip r p) ≤ 1 ∧ (p = posNone → bitFlip r p = r)

/-- R110: for every parameter setting, the codeword of a nibble decodes to it, with no bit or any one bit flipped. -/
def Obligations.SingleErrorCorrected : Prop :=
  ∀ (c : Config) (d : Nibble),
    decode7 (configCode c) (encode4 (configCode c).g d) = .ok d ∧
    ∀ p : Fin 7, decode7 (configCode c) (encode4 (configCode c).g d ^^^ errorAt p) = .ok d

/-- R109 and 95_test_vectors 2.5: a double error is never detected: the DECODE completes, raises nothing, and delivers a
wrong nibble. -/
def Obligations.DoubleErrorMiscorrected : Prop :=
  (∀ (s : State) (d : Nibble) (p q : Fin 7), s.fault = none → s.multiLane = false → p ≠ q →
    ∃ d', d' ≠ d ∧ exec (.decode (encode4 s.code.g d ^^^ errorAt p ^^^ errorAt q)) s =
      .next { s with outData := some d', outValid := true }) ∧
  ∀ s : State, s.config.parity = .pA → s.fault = none → s.multiLane = false →
    exec (.decode 0x03#7) s = .next { s with outData := some 0x7#4, outValid := true }

/-- R114: for every parameter setting, each block decodes to the nibble of the one codeword at distance 0 or 1 from it, and
each nibble is the result of exactly 8 of the 128 blocks. -/
def Obligations.NearestCodewordDecoding : Prop :=
  ∀ c : Config,
    (∀ r : Block, ∃ d, decode7 (configCode c) r = .ok d ∧ distance r (encode4 (configCode c).g d) ≤ 1 ∧
      ∀ d', distance r (encode4 (configCode c).g d') ≤ 1 → d' = d) ∧
    ∀ d : Nibble, ((List.range 128).filter fun n => decodesTo (configCode c) (BitVec.ofNat 7 n) d).length = 8

/-- R113: every block decodes alike under `A·H` for any invertible `A`, the table rebuilt, and with the syndrome tuple read
from its other end; but the four parity blocks give four different decoders. -/
def Obligations.DecodeInvariantUnderBasis : Prop :=
  (∀ (c : Config) (a : Basis3) (r : Block), a.invertible = true →
    decode7 (withCheckMatrix (configCode c) (changeBasis a (configCode c).h)) r = decode7 (configCode c) r) ∧
  (∀ (c : Config) (r : Block),
    decode7 (withCheckMatrix (configCode c) (reverseRows (configCode c).h)) r = decode7 (configCode c) r) ∧
  ∀ n n' : ParityP, n ≠ n' →
    ∃ r, decode7 (buildCode (parityRows n)) r ≠ decode7 (buildCode (parityRows n')) r

/-! ### The transactions -/

/-- R36, R183: every piece of state at power-up and after a RESET, which is the same; the constants are the construction's and
a RESET leaves them unchanged; a READ of the unwritten output faults. -/
def Obligations.PowerUpState : Prop :=
  State.reset.outData = none ∧ State.reset.outValid = false ∧ State.reset.fault = none ∧ State.reset.results = [] ∧
  State.reset.hostOut = [] ∧ construct (parityRows State.reset.config.parity) = .ok State.reset.code ∧
  (∀ s : State, ∃ t, exec .reset s = .next t ∧ t.outData = none ∧ t.outValid = false ∧ t.fault = none ∧
    t.results = [] ∧ t.code = s.code ∧ hostRead t = .next { t with fault := some .unwrittenOutputRead }) ∧
  exec .reset State.reset = .next State.reset

/-- R180, R181: RESET is enabled in every state, a faulted one too, and leaves the interface state at its reset values and
everything else alone; two in a row are one; a READ of what it discarded faults. -/
def Obligations.ResetTransaction : Prop :=
  (∀ inValid r, decode (stepWord true inValid r) = .reset) ∧
  (∀ s : State, exec .reset s =
    .next { s with outValid := false, outData := none, fault := none, results := [] }) ∧
  (∀ s t : State, exec .reset s = .next t → exec .reset t = .next t ∧ t.code = s.code) ∧
  ∀ s : State, s.fault = none → s.canAccept = true →
    ∃ t u, exec (.decode 0x55#7) s = .next t ∧ exec .reset t = .next u ∧
      hostRead u = .next { u with fault := some .unwrittenOutputRead }

/-- R107 with LANES = 1: DECODE completes in every unfaulted state on every block; it delivers what the datapath answers, and
a datapath that answers a fault (with other constants; its own never does) records it and writes no output; a codeword is returned as it is, a single error is corrected, `0x51` gives `0x5` under
every parity block, and decoding the same block again changes nothing. -/
def Obligations.DecodeTransaction : Prop :=
  (∀ r : Block, decode (stepWord false true r) = .decode r) ∧
  (∀ (s : State) (r : Block), s.fault = none → s.multiLane = false →
    (∃ d, decode7 s.code r = .ok d ∧ exec (.decode r) s = .next { s with outData := some d, outValid := true }) ∧
    exec (.decode r) s = decodeStep s.code r s ∧
    ∀ (c : CodeDef) (f : FaultCode), decode7 c r = .error f → decodeStep c r s = .next { s with fault := some f }) ∧
  (∀ (s : State) (f : FaultCode) (r : Block), s.fault = some f → exec (.decode r) s = .fault (.blockFaulted f)) ∧
  (∀ (s : State) (d : Nibble), s.fault = none → s.multiLane = false →
    exec (.decode (encode4 s.code.g d)) s = .next { s with outData := some d, outValid := true } ∧
    ∀ p : Fin 7, exec (.decode (encode4 s.code.g d ^^^ errorAt p)) s =
      .next { s with outData := some d, outValid := true }) ∧
  (∀ s : State, s.fault = none → s.multiLane = false →
    exec (.decode 0x51#7) s = .next { s with outData := some 0x5#4, outValid := true }) ∧
  ∀ (s t : State) (r : Block), s.multiLane = false → exec (.decode r) s = .next t → t.fault = none →
    exec (.decode r) t = .next t

/-- R137, R187: with LANES > 1, a DECODE with a place for its result puts it at the end of the result queue, and the outputs
show the queue's head (that they do so at once is the model's reading, log entry 3); with LANES results unread it has no step. -/
def Obligations.DecodeIntoTheResultQueue : Prop :=
  ∀ (s : State) (r : Block), s.fault = none → s.multiLane = true →
    (s.results.length < s.config.lanes → ∃ d, decode7 s.code r = .ok d ∧
      exec (.decode r) s = .next { s with
        results := s.results ++ [d], outData := some (s.results.headD d), outValid := true }) ∧
    (s.config.lanes ≤ s.results.length → exec (.decode r) s = .fault .resultQueueFull)

/-- R108, whatever LANES is: IDLE completes in every unfaulted state, clears `out_valid` and leaves `out_data` unchanged, with
LANES = 1 all else too (for LANES > 1 see IdleKeepsTheResultQueue); a faulted block has no step; right after a RESET it leaves
`out_data` unwritten; after DECODE 0x55 (with LANES > 1, into an empty queue) it holds 0x5. -/
def Obligations.IdleTransaction : Prop :=
  (∀ r : Block, decode (stepWord false false r) = .idle) ∧
  (∀ inValid r, decode (stepWord true inValid r) ≠ .idle) ∧
  (∀ s : State, s.fault = none →
    (∃ t, exec .idle s = .next t ∧ t.outValid = false ∧ t.outData = s.outData) ∧
    (s.multiLane = false → exec .idle s = .next { s with outValid := false })) ∧
  (∀ s t : State, exec .reset s = .next t → ∃ u, exec .idle t = .next u ∧ u.outData = none) ∧
  (∀ (s : State) (f : FaultCode), s.fault = some f → exec .idle s = .fault (.blockFaulted f)) ∧
  (∀ s : State, s.fault = none → s.multiLane = true → s.results = [] →
    ∃ t u, exec (.decode 0x55#7) s = .next t ∧ exec .idle t = .next u ∧
      u.outData = some 0x5#4 ∧ u.outValid = false) ∧
  ∀ s : State, s.fault = none → s.multiLane = false →
    ∃ t, exec (.decode 0x55#7) s = .next t ∧
      exec .idle t = .next { s with outData := some 0x5#4, outValid := false }

/-- R33, R108, R141 with LANES > 1: an IDLE completes in every unfaulted state, clears `out_valid`, and a READ after it appends
nothing. That it leaves the result queue as it is is deduced from what R108 lists as written (log entry 5). -/
def Obligations.IdleKeepsTheResultQueue : Prop :=
  ∀ s : State, s.multiLane = true →
    (s.fault = none → exec .idle s = .next { s with outValid := false } ∧
      ∃ u, hostRead { s with outValid := false } = .next u ∧ u.hostOut = s.hostOut) ∧
    ∀ f, s.fault = some f → exec .idle s = .fault (.blockFaulted f)

/-- R33, whatever LANES is: after a DECODE `out_valid` is 1, after an IDLE or a RESET it is 0. -/
def Obligations.OutValidAfterEachTransaction : Prop :=
  ∀ s t : State,
    ((∃ r, exec (.decode r) s = .next t) → t.outValid = true) ∧
    (exec .idle s = .next t → t.outValid = false) ∧
    (exec .reset s = .next t → t.outValid = false)

/-- The frame of the three transactions: none writes the parameters or the host's state; RESET leaves nothing else of the block;
DECODE that raises nothing writes only the outputs and, with LANES > 1, the queue; IDLE writes only `out_valid` (that it
leaves the result queue with LANES > 1 is the model's reading of R108, log entry 5). -/
def Obligations.TransactionFrames : Prop :=
  (∀ (i : Instr) (s t : State), exec i s = .next t →
    t.config = s.config ∧ t.hostIn = s.hostIn ∧ t.hostOut = s.hostOut ∧ t.hostPad = s.hostPad ∧
      t.readDue = s.readDue ∧ t.script = s.script) ∧
  (∀ (r : Block) (s t : State), exec (.decode r) s = .next t →
    t.fault = none ∧ (s.multiLane = false → t.results = s.results)) ∧
  ∀ s t : State, exec .idle s = .next t → t.fault = s.fault ∧ t.outData = s.outData ∧ t.results = s.results

/-- R35, R46: the result of a DECODE depends on its block and the constants alone, never on earlier transactions. -/
def Obligations.ResultDependsOnTheBlockAlone : Prop :=
  ∀ (s s' t t' : State) (r : Block), s.config = s'.config → s.multiLane = false →
    exec (.decode r) s = .next t → exec (.decode r) s' = .next t' →
    t.outData = t'.outData ∧ t.outValid = t'.outValid ∧ t.fault = t'.fault

/-- R28, R111: no state tells a block decoded without error from one with a corrected error, in any parameter setting. -/
def Obligations.CorrectionLeavesNoTrace : Prop :=
  ∀ (s : State) (d : Nibble) (p : Fin 7),
    exec (.decode (encode4 s.code.g d ^^^ errorAt p)) s = exec (.decode (encode4 s.code.g d)) s

/-! ### Faults -/

/-- R157, R158: while a fault is recorded DECODE and IDLE have no step, READ and the stream call are refused (the stream call:
log entry 9), and RESET alone is enabled and clears it. -/
def Obligations.FaultedBlockIsStopped : Prop :=
  ∀ (s : State) (f : FaultCode), s.fault = some f →
    (∀ r, exec (.decode r) s = .fault (.blockFaulted f)) ∧ exec .idle s = .fault (.blockFaulted f) ∧
    hostRead s = .refused (.readWhileFaulted f) ∧ (∀ xs, hostStream xs s = .refused (.streamWhileFaulted f)) ∧
    ∃ t, exec .reset s = .next t ∧ t.fault = none

/-- R150, R158: a fault is sticky: from a faulted state only a line whose word is a RESET takes a step, and it leaves the
block as RESET does (that a stream call takes none is the model's reading, log entry 9). -/
def Obligations.OnlyResetLeavesAFault : Prop :=
  ∀ (s t : State) (f : FaultCode), s.fault = some f → step s = .next t →
    ∃ w s', fetch s = some (.word w, s') ∧ wordRst w = true ∧ t = clearInterface s' ∧ t.fault = none

/-- R150, R157: a fault is precise: a DECODE (by a datapath with any constants, for with its own it raises none), a READ or a
stream call that raises it changes nothing but the record. -/
def Obligations.RaisingAFaultChangesNothingElse : Prop :=
  ∀ (s t : State) (f : FaultCode), s.fault = none → t.fault = some f →
    (∀ (c : CodeDef) (r : Block), decodeStep c r s = .next t → t = { s with fault := some f }) ∧
    (hostRead s = .next t → t = { s with fault := some f }) ∧
    ∀ xs, hostStream xs s = .next t → t = { s with fault := some f }

/-! ### The host: READ, the stream call, the framer -/

/-- R141, R155 with LANES = 1: a READ of an unwritten output raises code 4; a valid output is appended and stays, so that a
second READ appends it again; an output that is not valid appends nothing; no block state changes. -/
def Obligations.ReadAction : Prop :=
  (∀ s : State, s.fault = none → s.outData = none →
    hostRead s = .next { s with fault := some .unwrittenOutputRead }) ∧
  (∀ (s : State) (d : Nibble), s.fault = none → s.multiLane = false → s.outData = some d → s.outValid = true →
    hostRead s = .next { s with hostOut :=
      s.hostOut ++ [d.getLsbD 0, d.getLsbD 1, d.getLsbD 2, d.getLsbD 3] }) ∧
  (∀ (s : State) (d : Nibble), s.fault = none → s.multiLane = false → s.outData = some d → s.outValid = false →
    hostRead s = .next s) ∧
  ∀ s : State, s.fault = none → s.multiLane = false →
    ∃ t u, exec (.decode 0x55#7) s = .next t ∧
      hostRead t = .next { t with hostOut := s.hostOut ++ [true, false, true, false] } ∧
      exec .idle t = .next u ∧ hostRead u = .next u

/-- R137, R141: with LANES > 1, READ pops the queue's head; it appends it when `out_valid` is 1 and nothing when it is 0. That
a READ of an output that is not valid pops too, and what the outputs show afterwards, is the model's choice (log entry 4): the
next result, valid as before, or, of an empty queue, the result read last and not valid. -/
def Obligations.ReadPopsTheResultQueue : Prop :=
  ∀ (s : State) (d : Nibble), s.fault = none → s.multiLane = true → s.outData = some d →
    (∀ rest, s.results = d :: rest → s.outValid = true →
      hostRead s = .next { s with
        hostOut := s.hostOut ++ [d.getLsbD 0, d.getLsbD 1, d.getLsbD 2, d.getLsbD 3],
        results := rest, outData := some (rest.headD d), outValid := !rest.isEmpty }) ∧
    (∀ rest, s.results = d :: rest → s.outValid = false →
      hostRead s = .next { s with results := rest, outData := some (rest.headD d) }) ∧
    (s.results = [] → s.outValid = false → hostRead s = .next s)

/-- R133, R152: an input with an element that is not 0 or 1 gives INVALID_SYMBOL with the index of the first such element, to
the reference functions and to the stream call, which issues nothing. -/
def Obligations.FirstInvalidSymbolReported : Prop :=
  ∀ (xs : List Symbol) (i : Nat), i < xs.length → 1 < xs.getD i 0 → (∀ j < i, xs.getD j 0 ≤ 1) →
    (∀ c : CodeDef, decodeStream c xs = .error (.invalidSymbol i) ∧ encodeStream c.g xs = .error (.invalidSymbol i)) ∧
    expandStream xs = .error (.invalidSymbol i) ∧
    ∀ s : State, s.fault = none → hostStream xs s = .next { s with fault := some (.invalidSymbol i) }

/-- R132: a result is 4 bits for each whole block. And R130 with the unreachability of R103, which the spec marks as derived: a
binary stream decodes without a fault, in every parameter setting. -/
def Obligations.DecodeStreamLength : Prop :=
  (∀ (c : Config) (xs : List Symbol), (∀ x ∈ xs, x ≤ 1) → ∃ ys, decodeStream (configCode c) xs = .ok ys) ∧
  ∀ (c : CodeDef) (xs : List Symbol) (ys : List Bit), decodeStream c xs = .ok ys → ys.length = 4 * (xs.length / 7)

/-- R131: the trailing `L mod 7` bits change nothing: they are not decoded, not padded, and no fault. -/
def Obligations.PartialTailDropped : Prop :=
  ∀ (c : CodeDef) (xs tail : List Symbol), xs.length % 7 = 0 → tail.length < 7 → (∀ x ∈ tail, x ≤ 1) →
    decodeStream c (xs ++ tail) = decodeStream c xs

/-- R140: an empty or short binary stream gives no bits and no fault, and the host issues no line for it. -/
def Obligations.ShortStreamGivesNothing : Prop :=
  ∀ xs : List Symbol, xs.length ≤ 6 → (∀ x ∈ xs, x ≤ 1) →
    (∀ c : CodeDef, decodeStream c xs = .ok []) ∧ expandStream xs = .ok [] ∧
    ∀ s : State, s.fault = none → hostStream xs s = .next { s with hostIn := [] }

/-- R43, R130: the result is the nibbles of the blocks in block order: output bits `4b .. 4b+3` are the bits of the decode of
stream bits `7b .. 7b+6`. -/
def Obligations.BlocksDecodeInOrder : Prop :=
  ∀ (c : CodeDef) (xs : List Symbol) (ys : List Bit) (b : Nat), decodeStream c xs = .ok ys → b < xs.length / 7 →
    ∃ d, decode7 c (packBits 7 (((xs.drop (7 * b)).take 7).map (· == 1))) = .ok d ∧
      (ys.drop (4 * b)).take 4 = [d.getLsbD 0, d.getLsbD 1, d.getLsbD 2, d.getLsbD 3]

/-- R88: EncodeStream of a binary message of any length gives `7·⌈L/4⌉` bits; of none, none. -/
def Obligations.EncodeStreamLength : Prop :=
  (∀ (g : GenMatrix) (m : List Symbol), (∀ x ∈ m, x ≤ 1) →
    ∃ c, encodeStream g m = .ok c ∧ c.length = 7 * ((m.length + 3) / 4)) ∧
  (∀ g : GenMatrix, encodeStream g [] = .ok []) ∧
  encodeStream (buildG (parityRows .pA)) [1, 1] = .ok [true, true, false, false, false, true, true]

/-- R139: for every binary message and every parameter setting, decoding the encoded message gives it back, followed by the
`(4 - L mod 4) mod 4` pad zeros. -/
def Obligations.RoundTripWithPadding : Prop :=
  ∀ (c : Config) (m : List Symbol), (∀ x ∈ m, x ≤ 1) →
    ∃ e, encodeStream (configCode c).g m = .ok e ∧
      decodeStream (configCode c) (e.map Bool.toNat) =
        .ok (m.map (· == 1) ++ List.replicate ((4 - m.length % 4) % 4) false)

/-- R138: flip at most one bit in each block of an encoded message, or exactly one bit anywhere in it, and it decodes to the
same bits. -/
def Obligations.BlockIndependence : Prop :=
  ∀ (c : Config) (m : List Symbol) (e : List Bit), encodeStream (configCode c).g m = .ok e →
    (∀ e' : List Bit, e'.length = e.length →
      (∀ b < e.length / 7, distance (streamBlock e b) (streamBlock e' b) ≤ 1) →
      decodeStream (configCode c) (e'.map Bool.toNat) = decodeStream (configCode c) (e.map Bool.toNat)) ∧
    ∀ k < e.length, decodeStream (configCode c) ((e.set k (!e.getD k false)).map Bool.toNat) =
      decodeStream (configCode c) (e.map Bool.toNat)

/-- R134: one step of the framer: after a DECODE it READs; otherwise it issues the next whole block as a DECODE. -/
def Obligations.FramerStep : Prop :=
  (∀ s : State, s.readDue = true → step s = hostRead { s with readDue := false }) ∧
  ∀ s : State, s.readDue = false → 7 ≤ s.hostIn.length →
    step s = exec (.decode (packBits 7 (s.hostIn.take 7))) { s with hostIn := s.hostIn.drop 7, readDue := true }

/-- R135: the framer is adequate: from an unfaulted host about to start, a stream call on a binary stream ends the run with
`host_out` longer by exactly DecodeStream of it and no fault, in every parameter setting. -/
def Obligations.FramerComputesDecodeStream : Prop :=
  ∀ (s : State) (xs : List Symbol), s.ready = true → s.script = [.stream xs] → (∀ x ∈ xs, x ≤ 1) →
    ∃ t ys, EndsIn s t ∧ decodeStream s.code xs = .ok ys ∧ observation t = (s.hostOut ++ ys, none)

/-- R71: running the lines a STREAM expands to ends with the same observation as the stream call. -/
def Obligations.ExpansionRunsAsTheStreamCall : Prop :=
  ∀ (s : State) (xs : List Symbol) (ls : List Line), s.ready = true → s.script = [.stream xs] →
    expandStream xs = .ok ls →
    ∃ t u, EndsIn s t ∧ EndsIn { s with script := ls } u ∧ observation t = observation u

/-- R134, R108: a host may idle any number of steps before each block, between a READ and the next DECODE: the bits read are
the decodes of the blocks in order. -/
def Obligations.IdleStepsBetweenBlocksChangeNothing : Prop :=
  ∀ (s : State) (blocks : List (Nat × Block)), s.ready = true → s.script = framedLines blocks →
    ∃ t ds, EndsIn s t ∧ (blocks.mapM fun b => decode7 s.code b.2) = .ok ds ∧
      observation t = (s.hostOut ++ ds.flatMap unpackBits, none)

/-- R37, R136, R139: a host that sends a message and strips the pad bits it counted has the message back (when it sets and uses
the count is the model's choice, log entry 13). -/
def Obligations.HostRecoversItsMessage : Prop :=
  ∀ (s : State) (m : List Symbol), s.ready = true → s.script = [] → s.hostOut = [] → (∀ x ∈ m, x ≤ 1) →
    ∃ t, EndsIn (hostSend m s) t ∧ t.fault = none ∧ hostMessage t = m.map (· == 1)

/-- R137, R48: up to LANES blocks may be issued before the first READ; the results are read in issue order (the result queue's
detail is log entries 3 and 4). -/
def Obligations.ResultsReadInIssueOrder : Prop :=
  ∀ (s : State) (rs : List Block), s.ready = true → rs.length ≤ s.config.lanes →
    s.script = rs.map (fun r => .word (encode (.decode r))) ++ rs.map (fun _ => .read) →
    ∃ t ds, EndsIn s t ∧ rs.mapM (decode7 s.code) = .ok ds ∧
      observation t = (s.hostOut ++ ds.flatMap unpackBits, none)

/-- R137: a block with one lane and a block with `n` lanes give the same output sequence for the same stream. -/
def Obligations.LanesGiveTheSameSequences : Prop :=
  ∀ (s t u : State) (n : Nat) (xs : List Symbol), s.ready = true → s.script = [.stream xs] →
    EndsIn (s.withLanes 1) t → EndsIn (s.withLanes n) u → observation t = observation u

/-! ### The whole machine -/

/-- A step runs the decoded instruction: with the framer at rest and a step word as the host's next line, a step is `exec` of
the transaction the word selects, the line taken from the program. The last clause, on withFetchWord, is the model's choice
of how a word is placed (log entry 7: first in the program, the framer's stream and due READ dropped; log entry 15: the
number's low nine bits). -/
def Obligations.StepRunsTheDecodedWord : Prop :=
  (∀ (s : State) (w : StepWord) (rest : List Line), s.readDue = false → s.hostIn.length < 7 →
    s.script = .word w :: rest → step s = exec (decode w) { s with script := rest }) ∧
  (∀ (s : State) (i : Instr) (rest : List Line), s.readDue = false → s.hostIn.length < 7 →
    s.script = .word (encode i) :: rest → step s = exec i { s with script := rest }) ∧
  ∀ (s : State) (nbits w : Nat) (i : Instr), decodeTableWord nbits w = some i →
    step (s.withFetchWord nbits w) = exec i { s with hostIn := [], readDue := false }

/-- R142: the other lines, and the end of a run: READ and STREAM are executed as they come, and a host with nothing left has
ended its run, where a step stops by name (log entry 7). -/
def Obligations.StepRunsHostLines : Prop :=
  ∀ s : State, s.readDue = false → s.hostIn.length < 7 →
    (∀ rest, s.script = .read :: rest → step s = hostRead { s with script := rest }) ∧
    (∀ xs rest, s.script = .stream xs :: rest → step s = hostStream xs { s with script := rest }) ∧
    (s.script = [] → step s = .fault .runEnded ∧ s.runOver = true)

/-- The invariant holds at power-up. -/
def Obligations.InvariantAtReset : Prop := RunInv State.reset

/-- Every step keeps the invariant: well-formed parameters, outputs that agree with the result queue, a framer that holds
whole blocks, no fault but those the spec calls reachable (R151, R153), whole nibbles in `host_out`. The outputs with
LANES > 1 are the model's (log entries 3, 4 and 5). -/
def Obligations.EveryStepKeepsTheInvariant : Prop :=
  ∀ s t : State, RunInv s → step s = .next t → RunInv t

/-- R25, R182: no step writes the parameters, so `G`, `H` and `SYN_TABLE` hold their construction values whatever steps run. -/
def Obligations.ConstantsAreNeverWritten : Prop :=
  ∀ s t : State, step s = .next t →
    t.config = s.config ∧ t.code = s.code ∧ construct (parityRows t.config.parity) = .ok s.code

/-- R7, R186: LATENCY changes nothing: a step of the block with another LATENCY is the same step. -/
def Obligations.LatencyIsUnobservable : Prop :=
  ∀ (s : State) (n : Nat), step (s.withLatency n) = mapNext (State.withLatency n) (step s)

/-- R159: with a step word at hand: RESET wins over a recorded fault and over the block on the wires; a recorded fault stops
the other words; and for a stream call it comes before an invalid symbol (that the call is then refused: log entry 9). -/
def Obligations.PriorityWithinAStep : Prop :=
  ∀ (s : State) (f : FaultCode) (w : StepWord), s.fault = some f →
    (wordRst w = true → exec (decode w) s = .next (clearInterface s)) ∧
    (wordRst w = false → exec (decode w) s = .fault (.blockFaulted f)) ∧
    ∀ xs i, validate xs = .error (.invalidSymbol i) → hostStream xs s = .refused (.streamWhileFaulted f)

/-! ### The assembler -/

/-- R69, R70: the words of the source lines and the values of the operand expressions; `cw([1,0,1,0]) ^ e(2)` is `0x51` under
every parity block. The clause that a hex block of 128 or more is rejected by name is the model's choice (log entry 20). -/
def Obligations.AssemblerOperands : Prop :=
  (∀ g, assembleLine g .reset = .ok (.word 0x100#9) ∧ assembleLine g .idle = .ok (.word 0x000#9) ∧
    assembleLine g .read = .ok .read) ∧
  (∀ g n, n < 128 → assembleLine g (.decode (.hex n)) = .ok (.word (0x080#9 ||| BitVec.ofNat 9 n))) ∧
  (∀ g n, 128 ≤ n → assembleLine g (.decode (.hex n)) = .error .blockOutOfRange) ∧
  (∀ g n, n < 16 → evalBlock g (.cw (.hex n)) = .ok (encode4 g (BitVec.ofNat 4 n))) ∧
  (∀ g b r (p : Fin 7), evalBlock g b = .ok r → evalBlock g (.flip b p) = .ok (r ^^^ errorAt p)) ∧
  (∀ g (r : Block), evalBlock g (.seq (unpackBits r |>.map Bool.toNat)) = .ok r) ∧
  ∀ n : ParityP, assembleLine (buildG (parityRows n)) (.decode (.flip (.cw (.seq [1, 0, 1, 0])) 2)) =
    .ok (.word 0x0D1#9)

/-- R69, R70: the assembler accepts exactly the well-formed source lines (that it rejects the others: log entry 20). -/
def Obligations.AssemblerAcceptsTheWellFormed : Prop :=
  ∀ (g : GenMatrix) (l : SrcLine), l.wf = true ↔ ∃ line, assembleLine g l = .ok line
end

