-- ==== Sys2Proof/Laws/Datapath.lean ====
section
/-!
SUPPORT. The syndrome table entry by entry (spec/40_code_definition.md R83), and the DECODE datapath in two cases
(spec/41_decode.md R106).
-/

namespace Sys2Proof.Machine

/-- Reading a table after one entry is written. -/
theorem romRead_set (t : SynTable) (v sv : Syndrome) (p : PosCode) :
    romRead (t.set v.toNat p v.isLt) sv = if v = sv then p else romRead t sv := by
  unfold romRead
  rw [Vector.getElem_set]
  simp [BitVec.toNat_inj]

/-- The built table at a syndrome: the last position whose column it is, else NONE. -/
theorem romRead_buildSynTable (h : CheckMatrix) (sv : Syndrome) :
    romRead (buildSynTable h) sv =
      if column h 6 = sv then 6#3 else if column h 5 = sv then 5#3 else if column h 4 = sv then 4#3
      else if column h 3 = sv then 3#3 else if column h 2 = sv then 2#3 else if column h 1 = sv then 1#3
      else if column h 0 = sv then 0#3 else posNone := by
  simp only [buildSynTable, List.range, List.range.loop, List.foldl, romRead_set]
  simp [romRead]

/-- A zero syndrome passes the block through. -/
theorem decode7_of_zero {c : CodeDef} {r : Block} (h : syndrome c.h r = 0#3) : decode7 c r = .ok (extract r) := by
  simp [decode7, errorPosition, h, bitFlip, onehot7]

/-- A nonzero syndrome flips the position its entry names, if it names one. -/
theorem decode7_of_nonzero {c : CodeDef} {r : Block} (h : syndrome c.h r ≠ 0#3) :
    decode7 c r =
      if romRead c.synTable (syndrome c.h r) = posNone then .error (.internalInvariant (syndrome c.h r))
      else .ok (extract (bitFlip r (romRead c.synTable (syndrome c.h r)))) := by
  simp [decode7, errorPosition, h]

end Sys2Proof.Machine
end

