-- ==== Sys2Proof/Laws/PerInstr.lean ====
section
/-!
SUPPORT. The family RowFit of statements about every transaction as syntax (spec/30_encoding.md R65): its word has its row's
match in the bits of its row's mask, and no bit that the transaction does not use.
-/

namespace Sys2Proof.Laws.RowFit

/-- The word of a transaction fits its row of the opcode table and sets no `x` bit. -/
def Statement (i : Instr) : Prop :=
  encode i &&& rowMask i = rowMatch i ∧ encode i &&& usedMask i = encode i

theorem reset : Statement .reset := ⟨rfl, rfl⟩

theorem decode (r : Block) : Statement (.decode r) := by
  revert r; unfold Statement encode rowMask rowMatch usedMask; decide

theorem idle : Statement .idle := ⟨rfl, rfl⟩

end Sys2Proof.Laws.RowFit
end

