-- ==== Sys2Proof/Laws/Word.lean ====
section
/-!
SUPPORT. Sequences of bits and words (spec/00_scope.md R9): reading a bit of a packed word, and the two round trips.
-/

namespace Sys2Proof

theorem bitsValue_testBit (bs : List Bit) (k : Nat) : (bitsValue bs).testBit k = bs.getD k false := by
  induction bs generalizing k with
  | nil => simp [bitsValue]
  | cons b bs ih =>
    cases k with
    | zero => cases b <;> simp [bitsValue, Nat.testBit_zero]
    | succ k =>
      rw [Nat.testBit_succ]
      have : (bitsValue (b :: bs)) / 2 = bitsValue bs := by cases b <;> simp [bitsValue]; omega
      rw [this, ih]; simp

@[simp] theorem packBits_getLsbD (n : Nat) (bs : List Bit) (k : Nat) :
    (packBits n bs).getLsbD k = (decide (k < n) && bs.getD k false) := by
  simp [packBits, BitVec.getLsbD_ofNat, bitsValue_testBit]

@[simp] theorem unpackBits_length {n : Nat} (w : BitVec n) : (unpackBits w).length = n := by
  simp [unpackBits]

@[simp] theorem unpackBits_getD {n : Nat} (w : BitVec n) (k : Nat) : (unpackBits w).getD k false = w.getLsbD k := by
  by_cases h : k < n
  · simp [unpackBits, h]
  · simp [unpackBits, h, BitVec.getLsbD_of_ge w k (by omega)]

theorem packBits_unpackBits {n : Nat} (w : BitVec n) : packBits n (unpackBits w) = w := by
  ext k hk
  simp only [← BitVec.getLsbD_eq_getElem, packBits_getLsbD, unpackBits_getD, hk, decide_true, Bool.true_and]

theorem unpackBits_packBits (bs : List Bit) : unpackBits (packBits bs.length bs) = bs := by
  apply List.ext_getElem (by simp)
  intro k h1 h2
  have h : (unpackBits (packBits bs.length bs)).getD k false = bs.getD k false := by
    rw [unpackBits_getD, packBits_getLsbD]; simp [h2]
  rwa [List.getD_eq_getElem _ _ h1, List.getD_eq_getElem _ _ h2] at h

@[simp] theorem isBit_toNat (b : Bit) : isBit b.toNat = true := by cases b <;> rfl

@[simp] theorem symbolBit_toNat (b : Bit) : symbolBit b.toNat = b := by cases b <;> rfl

theorem isBit_iff (x : Symbol) : isBit x = true ↔ x ≤ 1 := by
  simpa [isBit] using Nat.le_one_iff_eq_zero_or_eq_one.symm

end Sys2Proof
end

