-- ==== Sys2Proof/Laws/Reference.lean ====
section
/-!
SUPPORT. The reference functions step by step (spec/42_stream.md R130, R133): what validation answers, and the blocks of a
stream taken off its front one at a time.
-/

namespace Sys2Proof.Machine

theorem firstInvalid_eq_none (xs : List Symbol) : firstInvalid xs = none ↔ ∀ x ∈ xs, x ≤ 1 := by
  simp [firstInvalid, List.findIdx?_eq_none_iff, isBit_iff]

/-- A binary input is valid, and its bits are its elements. -/
theorem validate_ok {xs : List Symbol} (h : ∀ x ∈ xs, x ≤ 1) : validate xs = .ok (xs.map symbolBit) := by
  simp [validate, (firstInvalid_eq_none xs).2 h]

/-- What a valid input's bits are. -/
theorem validate_eq_ok {xs : List Symbol} {bits : List Bit} :
    validate xs = .ok bits ↔ (∀ x ∈ xs, x ≤ 1) ∧ bits = xs.map symbolBit := by
  rw [← firstInvalid_eq_none]
  unfold validate
  cases firstInvalid xs <;> simp [eq_comm]

/-- The bits of a stream written as symbols are the stream. -/
@[simp] theorem validate_map_toNat (bits : List Bit) : validate (bits.map Bool.toNat) = .ok bits := by
  have h : ∀ x ∈ bits.map Bool.toNat, x ≤ 1 := by
    intro x hx
    obtain ⟨b, -, rfl⟩ := List.mem_map.1 hx
    exact Bool.toNat_le b
  rw [validate_ok h, List.map_map]
  simp [Function.comp_def]

/-- Fewer than seven bits hold no block. -/
theorem decodeBlocks_short {c : CodeDef} {bits : List Bit} (h : bits.length < 7) : decodeBlocks c bits = .ok [] := by
  simp [decodeBlocks, Nat.div_eq_of_lt h, pure, Except.pure]

/-- The first block of a stream is decoded first, then the blocks of the rest (R43). -/
theorem decodeBlocks_cons {c : CodeDef} {bits : List Bit} (h : 7 ≤ bits.length) :
    decodeBlocks c bits = (do
      let d ← decode7 c (packBits 7 (bits.take 7))
      let ds ← decodeBlocks c (bits.drop 7)
      pure (d :: ds)) := by
  have hn : bits.length / 7 = (bits.length - 7) / 7 + 1 := by omega
  unfold decodeBlocks
  rw [hn, List.range_succ_eq_map, List.mapM_cons, List.mapM_map, List.length_drop]
  simp only [streamBlock, Nat.mul_zero, List.drop_zero, List.drop_drop]
  have : (fun a => decode7 c (packBits 7 (List.take 7 (List.drop (7 * (a + 1)) bits)))) =
      fun a => decode7 c (packBits 7 (List.take 7 (List.drop (7 + 7 * a) bits))) := by
    funext a; rw [Nat.mul_add, Nat.add_comm (7 * a)]
  simp only [Function.comp_def, Nat.succ_eq_add_one, this]

end Sys2Proof.Machine
end

