-- ==== Sys2Proof/Laws/Run.lean ====
section
/-!
SUPPORT. Runs (spec/42_stream.md R142) one step at a time: how a run ends, and that it ends in one state only.
-/

namespace Sys2Proof.Machine

/-- A run that is over stays where it is. -/
theorem runFor_over {s : State} (h : s.runOver = true) (n : Nat) : runFor n s = s := by
  cases n <;> simp [runFor, h]

/-- A run that is not over goes on with its next step. -/
theorem runFor_succ {s t : State} (h : s.runOver = false) (hs : step s = .next t) (n : Nat) :
    runFor (n + 1) s = runFor n t := by
  simp [runFor, h, hs]

/-- A run that is over ends in its state. -/
theorem endsIn_self {s : State} (h : s.runOver = true) : EndsIn s s := ⟨0, rfl, h⟩

/-- A run ends where the run after its next step ends. -/
theorem endsIn_step {s t u : State} (h : s.runOver = false) (hs : step s = .next t) (hu : EndsIn t u) : EndsIn s u := by
  obtain ⟨n, hn, ho⟩ := hu
  exact ⟨n + 1, by rw [runFor_succ h hs, hn], ho⟩

/-- Steps add up. -/
theorem runFor_add (m n : Nat) (s : State) : runFor (m + n) s = runFor n (runFor m s) := by
  induction m generalizing s with
  | zero => simp [runFor]
  | succ m ih =>
    rw [Nat.add_right_comm]
    by_cases h : s.runOver = true
    · rw [runFor_over h, runFor_over h, runFor_over h]
    · cases hs : step s with
      | next t => rw [runFor_succ (by simpa using h) hs, runFor_succ (by simpa using h) hs, ih]
      | fault f =>
        have hn : ∀ k, runFor k s = s := fun k => by cases k <;> simp [runFor, h, hs]
        rw [hn, hn, hn]
      | refused r =>
        have hn : ∀ k, runFor k s = s := fun k => by cases k <;> simp [runFor, h, hs]
        rw [hn, hn, hn]

/-- A run ends in one state. -/
theorem endsIn_unique {s t u : State} (ht : EndsIn s t) (hu : EndsIn s u) : t = u := by
  obtain ⟨m, rfl, hm⟩ := ht
  obtain ⟨n, rfl, hn⟩ := hu
  have h1 : runFor (m + n) s = runFor m s := by rw [runFor_add, runFor_over hm]
  have h2 : runFor (n + m) s = runFor n s := by rw [runFor_add, runFor_over hn]
  rw [← h1, ← h2, Nat.add_comm]

end Sys2Proof.Machine
end

