-- ==== Sys2Proof/Laws/State.lean ====
section
/-!
SUPPORT. What each named operation does to each field of State, one lemma a field, so that no proof unfolds a record update.
-/

namespace Sys2Proof.Machine

/-! ### raise: only `fault` changes, and a fault already recorded is kept -/

@[simp] theorem raise_config (f : FaultCode) (s : State) : (raise f s).config = s.config := by
  unfold raise; split <;> rfl
@[simp] theorem raise_outData (f : FaultCode) (s : State) : (raise f s).outData = s.outData := by
  unfold raise; split <;> rfl
@[simp] theorem raise_outValid (f : FaultCode) (s : State) : (raise f s).outValid = s.outValid := by
  unfold raise; split <;> rfl
@[simp] theorem raise_fault (f : FaultCode) (s : State) : (raise f s).fault = some (s.fault.getD f) := by
  unfold raise; split <;> simp_all
@[simp] theorem raise_results (f : FaultCode) (s : State) : (raise f s).results = s.results := by
  unfold raise; split <;> rfl
@[simp] theorem raise_hostIn (f : FaultCode) (s : State) : (raise f s).hostIn = s.hostIn := by
  unfold raise; split <;> rfl
@[simp] theorem raise_hostOut (f : FaultCode) (s : State) : (raise f s).hostOut = s.hostOut := by
  unfold raise; split <;> rfl
@[simp] theorem raise_hostPad (f : FaultCode) (s : State) : (raise f s).hostPad = s.hostPad := by
  unfold raise; split <;> rfl
@[simp] theorem raise_readDue (f : FaultCode) (s : State) : (raise f s).readDue = s.readDue := by
  unfold raise; split <;> rfl
@[simp] theorem raise_script (f : FaultCode) (s : State) : (raise f s).script = s.script := by
  unfold raise; split <;> rfl

/-! ### clearInterface: the interface state at its reset values, the rest unchanged -/

@[simp] theorem clearInterface_config (s : State) : (clearInterface s).config = s.config := rfl
@[simp] theorem clearInterface_outData (s : State) : (clearInterface s).outData = none := rfl
@[simp] theorem clearInterface_outValid (s : State) : (clearInterface s).outValid = false := rfl
@[simp] theorem clearInterface_fault (s : State) : (clearInterface s).fault = none := rfl
@[simp] theorem clearInterface_results (s : State) : (clearInterface s).results = [] := rfl
@[simp] theorem clearInterface_hostIn (s : State) : (clearInterface s).hostIn = s.hostIn := rfl
@[simp] theorem clearInterface_hostOut (s : State) : (clearInterface s).hostOut = s.hostOut := rfl
@[simp] theorem clearInterface_hostPad (s : State) : (clearInterface s).hostPad = s.hostPad := rfl
@[simp] theorem clearInterface_readDue (s : State) : (clearInterface s).readDue = s.readDue := rfl
@[simp] theorem clearInterface_script (s : State) : (clearInterface s).script = s.script := rfl

/-! ### putResult -/

@[simp] theorem putResult_config (d : Nibble) (s : State) : (putResult d s).config = s.config := by
  unfold putResult; split <;> rfl
@[simp] theorem putResult_fault (d : Nibble) (s : State) : (putResult d s).fault = s.fault := by
  unfold putResult; split <;> rfl
@[simp] theorem putResult_hostIn (d : Nibble) (s : State) : (putResult d s).hostIn = s.hostIn := by
  unfold putResult; split <;> rfl
@[simp] theorem putResult_hostOut (d : Nibble) (s : State) : (putResult d s).hostOut = s.hostOut := by
  unfold putResult; split <;> rfl
@[simp] theorem putResult_hostPad (d : Nibble) (s : State) : (putResult d s).hostPad = s.hostPad := by
  unfold putResult; split <;> rfl
@[simp] theorem putResult_readDue (d : Nibble) (s : State) : (putResult d s).readDue = s.readDue := by
  unfold putResult; split <;> rfl
@[simp] theorem putResult_script (d : Nibble) (s : State) : (putResult d s).script = s.script := by
  unfold putResult; split <;> rfl
@[simp] theorem putResult_outValid (d : Nibble) (s : State) : (putResult d s).outValid = true := by
  unfold putResult; split <;> rfl
@[simp] theorem putResult_outData (d : Nibble) (s : State) :
    (putResult d s).outData = if s.multiLane then (s.results ++ [d]).head? else some d := by
  unfold putResult; split <;> rfl
@[simp] theorem putResult_results (d : Nibble) (s : State) :
    (putResult d s).results = if s.multiLane then s.results ++ [d] else s.results := by
  unfold putResult; split <;> rfl

/-! ### idleOutputs: only `outValid` changes -/

@[simp] theorem idleOutputs_config (s : State) : (idleOutputs s).config = s.config := rfl
@[simp] theorem idleOutputs_outData (s : State) : (idleOutputs s).outData = s.outData := rfl
@[simp] theorem idleOutputs_outValid (s : State) : (idleOutputs s).outValid = false := rfl
@[simp] theorem idleOutputs_fault (s : State) : (idleOutputs s).fault = s.fault := rfl
@[simp] theorem idleOutputs_results (s : State) : (idleOutputs s).results = s.results := rfl
@[simp] theorem idleOutputs_hostIn (s : State) : (idleOutputs s).hostIn = s.hostIn := rfl
@[simp] theorem idleOutputs_hostOut (s : State) : (idleOutputs s).hostOut = s.hostOut := rfl
@[simp] theorem idleOutputs_hostPad (s : State) : (idleOutputs s).hostPad = s.hostPad := rfl
@[simp] theorem idleOutputs_readDue (s : State) : (idleOutputs s).readDue = s.readDue := rfl
@[simp] theorem idleOutputs_script (s : State) : (idleOutputs s).script = s.script := rfl

/-! ### popResult -/

@[simp] theorem popResult_config (s : State) : (popResult s).config = s.config := by
  unfold popResult; split <;> rfl
@[simp] theorem popResult_fault (s : State) : (popResult s).fault = s.fault := by
  unfold popResult; split <;> rfl
@[simp] theorem popResult_hostIn (s : State) : (popResult s).hostIn = s.hostIn := by
  unfold popResult; split <;> rfl
@[simp] theorem popResult_hostOut (s : State) : (popResult s).hostOut = s.hostOut := by
  unfold popResult; split <;> rfl
@[simp] theorem popResult_hostPad (s : State) : (popResult s).hostPad = s.hostPad := by
  unfold popResult; split <;> rfl
@[simp] theorem popResult_readDue (s : State) : (popResult s).readDue = s.readDue := by
  unfold popResult; split <;> rfl
@[simp] theorem popResult_script (s : State) : (popResult s).script = s.script := by
  unfold popResult; split <;> rfl
@[simp] theorem popResult_outValid (s : State) :
    (popResult s).outValid = if s.multiLane then s.outValid && !s.results.tail.isEmpty else s.outValid := by
  unfold popResult; split <;> rfl
@[simp] theorem popResult_outData (s : State) :
    (popResult s).outData = if s.multiLane then s.results.tail.head?.or s.outData else s.outData := by
  unfold popResult; split <;> rfl
@[simp] theorem popResult_results (s : State) :
    (popResult s).results = if s.multiLane then s.results.tail else s.results := by
  unfold popResult; split <;> rfl

/-! ### collect: only `hostOut` changes -/

@[simp] theorem collect_config (d : Nibble) (s : State) : (collect d s).config = s.config := by
  unfold collect; split <;> rfl
@[simp] theorem collect_outData (d : Nibble) (s : State) : (collect d s).outData = s.outData := by
  unfold collect; split <;> rfl
@[simp] theorem collect_outValid (d : Nibble) (s : State) : (collect d s).outValid = s.outValid := by
  unfold collect; split <;> rfl
@[simp] theorem collect_fault (d : Nibble) (s : State) : (collect d s).fault = s.fault := by
  unfold collect; split <;> rfl
@[simp] theorem collect_results (d : Nibble) (s : State) : (collect d s).results = s.results := by
  unfold collect; split <;> rfl
@[simp] theorem collect_hostIn (d : Nibble) (s : State) : (collect d s).hostIn = s.hostIn := by
  unfold collect; split <;> rfl
@[simp] theorem collect_hostPad (d : Nibble) (s : State) : (collect d s).hostPad = s.hostPad := by
  unfold collect; split <;> rfl
@[simp] theorem collect_readDue (d : Nibble) (s : State) : (collect d s).readDue = s.readDue := by
  unfold collect; split <;> rfl
@[simp] theorem collect_script (d : Nibble) (s : State) : (collect d s).script = s.script := by
  unfold collect; split <;> rfl
@[simp] theorem collect_hostOut (d : Nibble) (s : State) :
    (collect d s).hostOut = if s.outValid then s.hostOut ++ unpackBits d else s.hostOut := by
  unfold collect; split <;> rfl

/-! ### driveWord: the word is the host's next line, the framer at rest -/

@[simp] theorem driveWord_config (w : StepWord) (s : State) : (driveWord w s).config = s.config := rfl
@[simp] theorem driveWord_outData (w : StepWord) (s : State) : (driveWord w s).outData = s.outData := rfl
@[simp] theorem driveWord_outValid (w : StepWord) (s : State) : (driveWord w s).outValid = s.outValid := rfl
@[simp] theorem driveWord_fault (w : StepWord) (s : State) : (driveWord w s).fault = s.fault := rfl
@[simp] theorem driveWord_results (w : StepWord) (s : State) : (driveWord w s).results = s.results := rfl
@[simp] theorem driveWord_hostIn (w : StepWord) (s : State) : (driveWord w s).hostIn = [] := rfl
@[simp] theorem driveWord_hostOut (w : StepWord) (s : State) : (driveWord w s).hostOut = s.hostOut := rfl
@[simp] theorem driveWord_hostPad (w : StepWord) (s : State) : (driveWord w s).hostPad = s.hostPad := rfl
@[simp] theorem driveWord_readDue (w : StepWord) (s : State) : (driveWord w s).readDue = false := rfl
@[simp] theorem driveWord_script (w : StepWord) (s : State) : (driveWord w s).script = .word w :: s.script := rfl

end Sys2Proof.Machine
end

