-- ==== Sys2Proof/Laws/Step.lean ====
section
/-!
SUPPORT. One lemma for each operation that says everything it can do when it answers a next state; proofs cite these instead
of unfolding the operation.
-/

namespace Sys2Proof.Machine

/-- An unfaulted DECODE with a place for its result, by what the datapath answers. -/
theorem decodeStep_running {c : CodeDef} {r : Block} {s : State} (hf : s.fault = none) (ha : s.canAccept = true) :
    decodeStep c r s =
      match decode7 c r with
      | .ok d => .next (putResult d s)
      | .error f => .next (raise f s) := by
  cases h : decode7 c r <;> simp [decodeStep, hf, ha, h]

/-- A faulted block has no DECODE step. -/
theorem decodeStep_faulted {c : CodeDef} {r : Block} {s : State} {f : FaultCode} (hf : s.fault = some f) :
    decodeStep c r s = .fault (.blockFaulted f) := by
  unfold decodeStep
  rw [hf]

/-- Everything a DECODE that takes a step can do. -/
theorem decodeStep_next {c : CodeDef} {r : Block} {s t : State} (h : decodeStep c r s = .next t) :
    s.fault = none ∧ s.canAccept = true ∧
      ((∃ d, decode7 c r = .ok d ∧ t = putResult d s) ∨
        (∃ f, decode7 c r = .error f ∧ t = raise f s)) := by
  unfold decodeStep at h
  split at h
  · cases h
  · rename_i hf
    split at h
    · rename_i ha
      refine ⟨hf, ha, ?_⟩
      split at h
      · rename_i d hd
        exact .inl ⟨d, hd, by simpa using h.symm⟩
      · rename_i f hd
        exact .inr ⟨f, hd, by simpa using h.symm⟩
    · cases h

/-- Everything an IDLE that takes a step can do. -/
theorem execIdle_next {s t : State} (h : execIdle s = .next t) : s.fault = none ∧ t = idleOutputs s := by
  unfold execIdle at h
  split at h
  · cases h
  · rename_i hf
    exact ⟨hf, by simpa using h.symm⟩

/-- Everything a transaction that takes a step can do. -/
theorem exec_next {i : Instr} {s t : State} (h : exec i s = .next t) :
    (i = .reset ∧ t = clearInterface s) ∨
    (∃ r, i = .decode r ∧ s.fault = none ∧ s.canAccept = true ∧
      ((∃ d, decode7 s.code r = .ok d ∧ t = putResult d s) ∨
        (∃ f, decode7 s.code r = .error f ∧ t = raise f s))) ∨
    (i = .idle ∧ s.fault = none ∧ t = idleOutputs s) := by
  cases i with
  | reset => exact .inl ⟨rfl, by simpa [exec, execReset] using h.symm⟩
  | decode r => exact .inr (.inl ⟨r, rfl, decodeStep_next h⟩)
  | idle => exact .inr (.inr ⟨rfl, execIdle_next h⟩)

/-- Everything a READ that is not refused can do. -/
theorem hostRead_next {s t : State} (h : hostRead s = .next t) :
    s.fault = none ∧
      ((s.outData = none ∧ t = raise .unwrittenOutputRead s) ∨
        (∃ d, s.outData = some d ∧ t = popResult (collect d s))) := by
  unfold hostRead at h
  split at h
  · cases h
  · rename_i hf
    refine ⟨hf, ?_⟩
    split at h
    · rename_i hd
      exact .inl ⟨hd, by simpa using h.symm⟩
    · rename_i d hd
      exact .inr ⟨d, hd, by simpa using h.symm⟩

/-- With one lane a READ pops nothing. -/
theorem popResult_oneLane {s : State} (h : s.multiLane = false) : popResult s = s := by
  simp [popResult, h]

/-- Everything a stream call that is not refused can do. -/
theorem hostStream_next {xs : List Symbol} {s t : State} (h : hostStream xs s = .next t) :
    s.fault = none ∧
      ((∃ f, validate xs = .error f ∧ t = raise f s) ∨
        (∃ bits, validate xs = .ok bits ∧ t = { s with hostIn := bits.take (7 * (bits.length / 7)) })) := by
  unfold hostStream at h
  split at h
  · cases h
  · rename_i hf
    refine ⟨hf, ?_⟩
    split at h
    · rename_i f hv
      exact .inl ⟨f, hv, by simpa using h.symm⟩
    · rename_i bits hv
      exact .inr ⟨bits, hv, by simpa using h.symm⟩

/-- Where the host's next line can come from. -/
theorem fetch_some {s s' : State} {l : Line} (h : fetch s = some (l, s')) :
    (s.readDue = true ∧ l = .read ∧ s' = { s with readDue := false }) ∨
    (s.readDue = false ∧ 7 ≤ s.hostIn.length ∧
      l = .word (encode (.decode (packBits 7 (s.hostIn.take 7)))) ∧
      s' = { s with hostIn := s.hostIn.drop 7, readDue := true }) ∨
    (s.readDue = false ∧ s.hostIn.length < 7 ∧
      ∃ rest, s.script = l :: rest ∧ s' = { s with script := rest }) := by
  unfold fetch at h
  split at h
  · rename_i hr
    simp only [Option.some.injEq, Prod.mk.injEq] at h
    exact .inl ⟨hr, h.1.symm, h.2.symm⟩
  · rename_i hr
    have hr' : s.readDue = false := by simpa using hr
    split at h
    · rename_i hl
      simp only [Option.some.injEq, Prod.mk.injEq] at h
      exact .inr (.inl ⟨hr', hl, h.1.symm, h.2.symm⟩)
    · rename_i hl
      split at h
      · cases h
      · rename_i l' rest hs
        simp only [Option.some.injEq, Prod.mk.injEq] at h
        obtain ⟨rfl, rfl⟩ := h
        exact .inr (.inr ⟨hr', by omega, rest, hs, rfl⟩)

/-- Taking the next line touches no state of the block, and of the host's state only what is still to be issued. -/
theorem fetch_frame {s s' : State} {l : Line} (h : fetch s = some (l, s')) :
    s'.config = s.config ∧ s'.outData = s.outData ∧ s'.outValid = s.outValid ∧ s'.fault = s.fault ∧
      s'.results = s.results ∧ s'.hostOut = s.hostOut ∧ s'.hostPad = s.hostPad := by
  rcases fetch_some h with ⟨_, _, rfl⟩ | ⟨_, _, _, rfl⟩ | ⟨_, _, _, _, rfl⟩ <;> simp

/-- A step is the host's next line, executed. -/
theorem step_of_fetch {s s' : State} {l : Line} (h : fetch s = some (l, s')) : step s = runLine l s' := by
  simp [step, runNext, h]

/-- A step that answers a next state has fetched a line and executed it. -/
theorem step_next {s t : State} (h : step s = .next t) :
    ∃ l s', fetch s = some (l, s') ∧ runLine l s' = .next t := by
  unfold step runNext at h
  split at h
  · cases h
  · rename_i l s' hf
    exact ⟨l, s', hf, h⟩

end Sys2Proof.Machine
end

