-- ==== Sys2Proof/Tests/Slice0.lean ====
section
/-!
SUPPORT. The model's own tests, and for each statement with hypotheses a witness that meets them. Expected results are the
spec's: its encodings (30_encoding), worked examples and tables (95_test_vectors).
-/

namespace Sys2Proof.Tests

open Sys2Proof.Machine

/-! ### Helpers -/

/-- The next state of an outcome. -/
def nextOf : Host.Outcome State Fault Refusal → Option State
  | .next t => some t
  | .fault _ => none
  | .refused _ => none

/-- The value of a result. -/
def okOf {ε α : Type} : Except ε α → Option α
  | .ok a => some a
  | .error _ => none

/-- The error of a result. -/
def errOf {ε α : Type} : Except ε α → Option ε
  | .ok _ => none
  | .error e => some e

/-- What the outputs and the fault record show after a step. -/
def outputsAfter (o : Host.Outcome State Fault Refusal) : Option (Bit × Option Nibble × Option FaultCode) :=
  (nextOf o).map fun t => (t.outValid, t.outData, t.fault)

/-- A block with these parity rows and lanes, reset. -/
def blockWith (p : ParityP) (lanes : Nat) : State :=
  { State.reset with config := { parity := p, lanes := lanes, latency := 1 } }

/-- A block after a DECODE that gave `d`. -/
def holding (d : Nibble) : State := { State.reset with outData := some d, outValid := true }

/-- A faulted block. -/
def faulted : State := { State.reset with fault := some .unwrittenOutputRead }

/-- Two lanes, with these results unread. -/
def queued (rs : List Nibble) : State :=
  { blockWith .pA 2 with results := rs, outData := rs.head?, outValid := !rs.isEmpty }

/-- A host about to run these lines. -/
def hostWith (ls : List Line) : State := { State.reset with script := ls }

/-- The constants of `P_A` with a table that knows no error. -/
def blankTable : CodeDef := { configCode defaultConfig with synTable := Vector.replicate 8 posNone }

/-! ### Well-formedness: an ill-formed term for each check, which the check refuses -/

theorem test_wf_hex_block : (BlockExpr.hex 128).wf = false ∧ (BlockExpr.hex 127).wf = true := by decide
theorem test_wf_seq_block_length : (BlockExpr.seq [1, 0, 1, 0, 1, 0]).wf = false := by decide
theorem test_wf_seq_block_bits : (BlockExpr.seq [1, 0, 2, 0, 1, 0, 1]).wf = false := by decide
theorem test_wf_hex_nibble : (NibbleExpr.hex 16).wf = false ∧ (NibbleExpr.hex 15).wf = true := by decide
theorem test_wf_seq_nibble : (NibbleExpr.seq [1, 0, 1]).wf = false ∧ (NibbleExpr.seq [1, 0, 3, 0]).wf = false := by decide
theorem test_wf_flip : (BlockExpr.flip (.hex 0) 7).wf = false ∧ (BlockExpr.flip (.hex 0) 6).wf = true := by decide
theorem test_wf_line : (SrcLine.decode (.cw (.hex 16))).wf = false := by decide
theorem test_wf_config : (Config.wf ⟨.pA, 0, 1⟩ = false ∧ Config.wf ⟨.pA, 1, 0⟩ = false) ∧ Config.wf ⟨.pA, 1, 1⟩ = true := by
  decide
theorem test_wf_instr : (Instr.decode 0x7F#7).wf = true := rfl

/-! ### Decoding: words written out from 30_encoding R65 -/

theorem test_decode_reset : decode 0b1_0000_0000#9 = .reset := by decide
theorem test_decode_reset_ignores_the_rest : decode 0x1D5#9 = .reset := by decide
theorem test_decode_decode : decode 0b0_1101_0001#9 = .decode 0b1010001#7 := by decide
theorem test_decode_decode_top_bit : decode 0b0_1100_0000#9 = .decode 0b1000000#7 := by decide
theorem test_decode_idle : decode 0b0_0000_0000#9 = .idle := by decide
theorem test_decode_idle_ignores_the_block : decode 0x055#9 = .idle := by decide
theorem test_decode_table_word : decodeTableWord 16 0x0D1 = some (.decode 0x51#7) ∧ decodeTableWord 16 0x200 = none := by
  decide

/-! ### The code definition and the datapath: 95_test_vectors 2.1 to 2.6 -/

theorem test_encode4_codebook_d : (encode4 (buildG (parityRows .pA)) 0xD#4, encode4 (buildG (parityRows .pB)) 0xD#4,
    encode4 (buildG (parityRows .pC)) 0xD#4, encode4 (buildG (parityRows .pD)) 0xD#4) =
    (0x2D#7, 0x0D#7, 0x2D#7, 0x0D#7) := by decide
theorem test_encode4_codebook_3 : (encode4 (buildG (parityRows .pA)) 0x3#4, encode4 (buildG (parityRows .pB)) 0x3#4,
    encode4 (buildG (parityRows .pC)) 0x3#4, encode4 (buildG (parityRows .pD)) 0x3#4) =
    (0x63#7, 0x43#7, 0x33#7, 0x13#7) := by decide
theorem test_syndrome_of_single_flip : syndrome (buildH (parityRows .pA)) 0x5D#7 = 7#3 := by decide
theorem test_decode7_parity_error : okOf (decode7 (configCode defaultConfig) 0x10#7) = some 0x0#4 := by decide
theorem test_decode7_miscorrects : okOf (decode7 (configCode defaultConfig) 0x28#7) = some 0xA#4 := by decide
theorem test_decode7_blank_table_faults :
    errOf (decode7 blankTable 0x51#7) = some (.internalInvariant 6#3) := by decide
theorem test_onehot7 : onehot7 6#3 = 0x40#7 ∧ onehot7 7#3 = 0#7 := by decide
theorem test_construct_fails : errOf (construct ⟨0b011#3, 0b011#3, 0b110#3, 0b111#3⟩) =
    some (.constructionInconsistency .distinctColumns) := by decide
theorem test_fault_numbers : faultNumber (some (.invalidSymbol 8)) = 1 ∧ faultNumber (some .unwrittenOutputRead) = 4 := by
  decide

/-! ### The transactions: one step each -/

theorem test_reset_clears_a_fault : outputsAfter (exec .reset faulted) = some (false, none, none) := by decide
theorem test_reset_discards_a_result : outputsAfter (exec .reset (holding 0x5#4)) = some (false, none, none) := by decide
theorem test_decode_corrects : outputsAfter (exec (.decode 0x51#7) State.reset) = some (true, some 0x5#4, none) := by decide
theorem test_decode_miscorrects : outputsAfter (exec (.decode 0x03#7) State.reset) = some (true, some 0x7#4, none) := by
  decide
theorem test_idle_holds_the_data : outputsAfter (exec .idle (holding 0x5#4)) = some (false, some 0x5#4, none) := by decide
theorem test_idle_after_reset : outputsAfter (exec .idle State.reset) = some (false, none, none) := by decide

/-! ### The host -/

theorem test_read_appends : (nextOf (hostRead (holding 0x7#4))).map (·.hostOut) = some [true, true, true, false] := by decide
theorem test_read_unwritten : outputsAfter (hostRead State.reset) = some (false, none, some .unwrittenOutputRead) := by
  decide
theorem test_stream_invalid : outputsAfter (hostStream [1, 0, 1, 0, 1, 0, 1, 1, 2, 0, 0, 1, 1, 0] State.reset) =
    some (false, none, some (.invalidSymbol 8)) := by decide
theorem test_stream_drops_the_tail : (nextOf (hostStream [1, 0, 1, 0, 1, 0, 1, 1, 0, 1] State.reset)).map (·.hostIn) =
    some [true, false, true, false, true, false, true] := by decide
theorem test_decodeStream_truncates : okOf (decodeStream (configCode defaultConfig)
    [1, 0, 1, 0, 1, 0, 1, 0, 0, 0, 0, 1, 1, 0, 1, 0, 1]) = some [true, false, true, false, true, false, false, false] := by
  decide
theorem test_decodeStream_invalid_tail : errOf (decodeStream (configCode defaultConfig) [1, 0, 1, 0, 1, 0, 1, 1, 5]) =
    some (.invalidSymbol 8) := by decide
theorem test_encodeStream_pads : okOf (encodeStream (buildG (parityRows .pA)) [1, 1]) =
    some [true, true, false, false, false, true, true] := by decide
theorem test_lanes_read_in_order : (nextOf (hostRead (queued [0x7#4, 0x5#4]))).map (fun t => (t.results, t.outData)) =
    some ([0x5#4], some 0x5#4) := by decide

theorem test_lanes_idle_clears_out_valid : outputsAfter (exec .idle (queued [0x5#4])) = some (false, some 0x5#4, none) := by
  decide
theorem test_lanes_read_after_idle_appends_nothing :
    (nextOf (hostRead { queued [0x5#4] with outValid := false })).map (·.hostOut) = some [] := by decide

/-! ### The assembler -/

theorem test_parse_decode : okOf (parseLine "DECODE cw([1,0,1,0]) ^ e(2) ; one error".toList) =
    some (some (.decode (.flip (.cw (.seq [1, 0, 1, 0])) 2))) := by decide
theorem test_parse_hex : okOf (parseLine "DECODE 0x7F".toList) = some (some (.decode (.hex 127))) := by decide
theorem test_parse_stream : okOf (parseLine "STREAM [1, 0, 2]".toList) = some (some (.stream [1, 0, 2])) := by decide
theorem test_parse_comment : okOf (parseLine " ; RESET".toList) = some none := by decide
theorem test_parse_no_encode : errOf (parseLine "ENCODE 0x5".toList) = some .badLine := by decide
theorem test_expand_stream : okOf (expandStream [1, 0, 1, 0, 1, 0, 1, 1]) = some [.word 0x0D5#9, .read] := by decide

/-! ### Witnesses: states and operands that meet the hypotheses of each statement, at the edges of their ranges -/

theorem witness_StepWordFields : (6 < 7 ∧ 3 < 4 ∧ 2 < 3) ∧ (blockParity 0x40#7).getLsbD 2 = true := by decide

theorem witness_WordsSelectTransactions :
    (0x1D5#9 &&& usedMask (decode 0x100#9) = 0x100#9 &&& usedMask (decode 0x100#9)) ∧
    (0x07F#9 &&& usedMask (decode 0x000#9) = 0x000#9 &&& usedMask (decode 0x000#9)) ∧
    (0x0FF#9 &&& 0x180#9 = 0x080#9) := by decide

theorem witness_NoStepWordIsIllegal :
    (State.reset.fault = none ∧ State.reset.canAccept = true) ∧ (queued [0x1#4]).canAccept = true ∧
    okOf (decodeNumber 511) = some .reset ∧ errOf (decodeNumber 512) = some .widerThanNineBits := by decide

theorem witness_DecodeEncodeAgree : Instr.reset.wf = true ∧ (Instr.decode 0x7F#7).wf = true ∧ Instr.idle.wf = true := by
  decide

theorem witness_MatricesAreSystematic : (3 < 4 ∧ 6 < 7 ∧ 2 < 3) ∧ (buildG (parityRows .pA)).g3.getLsbD 6 = true := by decide

theorem witness_TableHoldsEachPosition : columnsDistinct (buildH (parityRows .pC)) = true ∧
    romRead (buildSynTable (buildH (parityRows .pC))) 7#3 = 3#3 ∧
    romRead (buildSynTable (buildH (parityRows .pC))) 1#3 = 4#3 := by decide

theorem witness_ConstructionChecks :
    columnsDistinct (buildH (parityRows .pD)) = true ∧ columnsDistinct (buildH ⟨0#3, 0b101#3, 0b110#3, 0b111#3⟩) = false ∧
    orthogonal (buildG (parityRows .pA)) (buildH (parityRows .pC)) = false := by decide

theorem witness_AdmissibleParityBlocks : admissible (parityRows .pB) = true ∧
    admissible ⟨0b111#3, 0b011#3, 0b101#3, 0b110#3⟩ = false := by decide

theorem witness_CodewordsAndDistance : (0x0#4 ≠ 0x7#4) ∧
    distance (encode4 (configCode defaultConfig).g 0x0#4) (encode4 (configCode defaultConfig).g 0x7#4) = 3 := by decide

theorem witness_TableMissIsAFault :
    syndrome blankTable.h 0x51#7 ≠ 0#3 ∧ romRead blankTable.synTable (syndrome blankTable.h 0x51#7) = posNone ∧
    State.reset.fault = none ∧ State.reset.canAccept = true := by decide

theorem witness_CorrectorFlipsTheLookedUpBit :
    syndrome (configCode defaultConfig).h 0x07#7 = 0#3 ∧ syndrome (configCode defaultConfig).h 0x51#7 ≠ 0#3 ∧
    syndrome (configCode defaultConfig).h 0x10#7 ≠ 0#3 ∧
    4 ≤ (romRead (configCode defaultConfig).synTable (syndrome (configCode defaultConfig).h 0x10#7)).toNat := by decide

theorem witness_DoubleErrorMiscorrected : State.reset.config.parity = .pA ∧ State.reset.fault = none ∧
    State.reset.multiLane = false ∧ (0 : Fin 7) ≠ 6 := by decide

theorem witness_NearestCodewordDecoding : distance 0x51#7 (encode4 (configCode defaultConfig).g 0x5#4) ≤ 1 := by decide

theorem witness_DecodeInvariantUnderBasis : Basis3.invertible ⟨0b011#3, 0b010#3, 0b111#3⟩ = true ∧
    Basis3.invertible ⟨0b011#3, 0b101#3, 0b110#3⟩ = false ∧ ParityP.pA ≠ .pD := by decide

theorem witness_ResetTransaction : nextOf (exec .reset (holding 0x5#4)) = some State.reset ∧
    State.reset.fault = none ∧ State.reset.canAccept = true := by decide

theorem witness_DecodeTransaction :
    (State.reset.fault = none ∧ State.reset.multiLane = false) ∧ (blockWith .pC 1).multiLane = false ∧
    faulted.fault = some .unwrittenOutputRead ∧ errOf (decode7 blankTable 0x51#7) = some (.internalInvariant 6#3) ∧
    outputsAfter (exec (.decode 0x51#7) State.reset) = some (true, some 0x5#4, none) := by decide

theorem witness_DecodeIntoTheResultQueue :
    ((queued [0x1#4]).fault = none ∧ (queued [0x1#4]).multiLane = true ∧
      (queued [0x1#4]).results.length < (queued [0x1#4]).config.lanes) ∧
    (queued [0x1#4, 0x2#4]).config.lanes ≤ (queued [0x1#4, 0x2#4]).results.length := by decide

theorem witness_IdleTransaction : State.reset.fault = none ∧ State.reset.multiLane = false ∧
    (queued []).fault = none ∧ (queued []).multiLane = true ∧ (queued []).results = [] ∧
    faulted.fault = some .unwrittenOutputRead ∧ nextOf (exec .reset faulted) = some State.reset := by decide

theorem witness_IdleKeepsTheResultQueue : (queued [0x1#4]).multiLane = true ∧ (queued [0x1#4]).fault = none ∧
    { queued [] with fault := some .unwrittenOutputRead }.fault = some .unwrittenOutputRead ∧
    { queued [] with fault := some .unwrittenOutputRead }.multiLane = true := by decide

theorem witness_OutValidAfterEachTransaction : (nextOf (exec (.decode 0x51#7) (queued [0x1#4]))).isSome = true ∧
    (nextOf (exec .idle (queued [0x1#4]))).isSome = true ∧ (nextOf (exec .reset (queued [0x1#4]))).isSome = true := by decide

theorem witness_TransactionFrames : (nextOf (exec .reset faulted)).isSome = true ∧
    (nextOf (exec (.decode 0x00#7) State.reset)).isSome = true ∧ State.reset.multiLane = false ∧
    (nextOf (exec .idle State.reset)).isSome = true := by decide

theorem witness_ResultDependsOnTheBlockAlone : State.reset.config = (holding 0x5#4).config ∧
    State.reset.multiLane = false ∧ (nextOf (exec (.decode 0x03#7) State.reset)).isSome = true ∧
    (nextOf (exec (.decode 0x03#7) (holding 0x5#4))).isSome = true := by decide

theorem witness_FaultedBlockIsStopped : faulted.fault = some .unwrittenOutputRead := rfl

theorem witness_OnlyResetLeavesAFault : { faulted with script := [.word 0x100#9] }.fault = some .unwrittenOutputRead ∧
    nextOf (step { faulted with script := [.word 0x100#9] }) = some State.reset := by decide

theorem witness_RaisingAFaultChangesNothingElse :
    (nextOf (decodeStep blankTable 0x51#7 State.reset)).map (·.fault) = some (some (.internalInvariant 6#3)) ∧
    (nextOf (hostRead State.reset)).map (·.fault) = some (some .unwrittenOutputRead) ∧
    (nextOf (hostStream [2] State.reset)).map (·.fault) = some (some (.invalidSymbol 0)) := by decide

theorem witness_ReadAction : State.reset.fault = none ∧ State.reset.outData = none ∧
    (holding 0x5#4).outData = some 0x5#4 ∧ (holding 0x5#4).outValid = true ∧ (holding 0x5#4).multiLane = false ∧
    { holding 0x5#4 with outValid := false }.outData = some 0x5#4 := by decide

theorem witness_ReadPopsTheResultQueue : (queued [0x7#4]).results = 0x7#4 :: [] ∧ (queued [0x7#4]).fault = none ∧
    (queued [0x7#4]).multiLane = true ∧ (queued [0x7#4]).outData = some 0x7#4 ∧ (queued [0x7#4]).outValid = true ∧
    (queued [0x7#4, 0x5#4]).results = 0x7#4 :: [0x5#4] ∧
    { queued [0x7#4] with outValid := false }.outData = some 0x7#4 ∧
    { queued [] with outData := some 0x7#4 }.results = [] ∧ (queued []).outValid = false := by decide

theorem witness_FirstInvalidSymbolReported :
    (2 < [1, 0, 2, 0].length ∧ 1 < [1, 0, 2, 0].getD 2 0 ∧ ∀ j < 2, [1, 0, 2, 0].getD j 0 ≤ 1) ∧
    (0 < [2].length ∧ 1 < [2].getD 0 0 ∧ ∀ j < 0, [2].getD j 0 ≤ 1) := by decide

theorem witness_DecodeStreamLength : (∀ x ∈ [1, 0, 1, 0, 1, 0, 0], x ≤ 1) ∧
    okOf (decodeStream (configCode defaultConfig) [1, 0, 1, 0, 1, 0, 0]) = some [true, false, true, false] := by decide

theorem witness_PartialTailDropped : [1, 0, 1, 0, 1, 0, 1].length % 7 = 0 ∧ [1, 0, 1, 0, 1, 0].length < 7 ∧
    (∀ x ∈ [1, 0, 1, 0, 1, 0], x ≤ 1) ∧ ([] : List Nat).length < 7 := by decide

theorem witness_ShortStreamGivesNothing : ([] : List Nat).length ≤ 6 ∧ [1, 0, 1, 0, 1, 1].length ≤ 6 ∧
    (∀ x ∈ [1, 0, 1, 0, 1, 1], x ≤ 1) ∧ State.reset.fault = none := by decide

theorem witness_BlocksDecodeInOrder : 1 < [1, 0, 1, 0, 1, 0, 1, 0, 0, 0, 0, 1, 1, 0].length / 7 ∧
    okOf (decodeStream (configCode defaultConfig) [1, 0, 1, 0, 1, 0, 1, 0, 0, 0, 0, 1, 1, 0]) =
      some [true, false, true, false, true, false, false, false] := by decide

theorem witness_EncodeStreamLength : ∀ x ∈ [1, 1], x ≤ 1 := by decide

theorem witness_RoundTripWithPadding : (∀ x ∈ [1, 1], x ≤ 1) ∧ ∀ x ∈ ([] : List Nat), x ≤ 1 := by decide

theorem witness_BlockIndependence :
    okOf (encodeStream (configCode defaultConfig).g [1, 1]) = some [true, true, false, false, false, true, true] ∧
    [true, true, false, false, false, true, false].length = [true, true, false, false, false, true, true].length ∧
    (∀ b < 1, distance (streamBlock [true, true, false, false, false, true, true] b)
      (streamBlock [true, true, false, false, false, true, false] b) ≤ 1) ∧
    6 < [true, true, false, false, false, true, true].length := by decide

theorem witness_FramerStep : { holding 0x5#4 with readDue := true }.readDue = true ∧
    { State.reset with hostIn := List.replicate 7 true }.readDue = false ∧
    7 ≤ { State.reset with hostIn := List.replicate 7 true }.hostIn.length := by decide

theorem witness_FramerComputesDecodeStream : (hostWith [.stream [1, 0, 1, 0, 1, 0, 0]]).ready = true ∧
    (hostWith [.stream [1, 0, 1, 0, 1, 0, 0]]).script = [.stream [1, 0, 1, 0, 1, 0, 0]] ∧
    ∀ x ∈ [1, 0, 1, 0, 1, 0, 0], x ≤ 1 := by decide

theorem witness_ExpansionRunsAsTheStreamCall : (hostWith [.stream [1, 0, 1, 0, 1, 0, 1]]).ready = true ∧
    okOf (expandStream [1, 0, 1, 0, 1, 0, 1]) = some [.word 0x0D5#9, .read] := by decide

theorem witness_IdleStepsBetweenBlocksChangeNothing :
    (hostWith (framedLines [(2, 0x51#7), (0, 0x03#7)])).ready = true ∧
    framedLines [(1, 0x51#7)] = [.word 0x000#9, .word 0x0D1#9, .read] := by decide

theorem witness_HostRecoversItsMessage : State.reset.ready = true ∧ State.reset.script = [] ∧ State.reset.hostOut = [] ∧
    ∀ x ∈ [1, 1], x ≤ 1 := by decide

theorem witness_ResultsReadInIssueOrder :
    { blockWith .pA 2 with script := [.word 0x0D1#9, .word 0x083#9, .read, .read] }.ready = true ∧
    [0x51#7, 0x03#7].length ≤ (blockWith .pA 2).config.lanes ∧
    [0x51#7, 0x03#7].map (fun r => Line.word (encode (.decode r))) = [.word 0x0D1#9, .word 0x083#9] := by decide

theorem witness_LanesGiveTheSameSequences : (hostWith [.stream [1, 0, 1]]).ready = true ∧
    (∃ t, EndsIn ((hostWith [.stream [1, 0, 1]]).withLanes 1) t) ∧
    ∃ u, EndsIn ((hostWith [.stream [1, 0, 1]]).withLanes 3) u :=
  ⟨by decide, ⟨_, 1, rfl, by decide⟩, ⟨_, 1, rfl, by decide⟩⟩

theorem witness_StepRunsTheDecodedWord :
    ((hostWith [.word 0x0D1#9]).readDue = false ∧ (hostWith [.word 0x0D1#9]).hostIn.length < 7) ∧
    encode (.decode 0x51#7) = 0x0D1#9 ∧ decodeTableWord 16 0x0D1 = some (.decode 0x51#7) := by decide

theorem witness_StepRunsHostLines : (hostWith [.read]).readDue = false ∧ (hostWith [.read]).hostIn.length < 7 ∧
    (hostWith [.stream [1]]).script = [.stream [1]] ∧ State.reset.script = [] := by decide

theorem witness_EveryStepKeepsTheInvariant : RunInv (hostWith [.word 0x0D1#9]) ∧
    (nextOf (step (hostWith [.word 0x0D1#9]))).isSome = true := by
  unfold RunInv; decide

theorem witness_ConstantsAreNeverWritten : (nextOf (step (hostWith [.word 0x100#9]))).isSome = true := by decide

theorem witness_PriorityWithinAStep : faulted.fault = some .unwrittenOutputRead ∧ wordRst 0x1D5#9 = true ∧
    wordRst 0x0D5#9 = false ∧ errOf (validate [0, 3]) = some (.invalidSymbol 1) := by decide

theorem witness_AssemblerOperands : (127 < 128 ∧ 15 < 16 ∧ 128 ≤ 128) ∧
    errOf (assembleLine (buildG (parityRows .pA)) (.decode (.hex 128))) = some .blockOutOfRange ∧
    okOf (evalBlock (buildG (parityRows .pA)) (.hex 0x51)) = some 0x51#7 := by decide

theorem witness_AssemblerAcceptsTheWellFormed : (SrcLine.decode (.flip (.hex 0x7F) 6)).wf = true := by decide

/-- The first step after reset with a word placed runs it: DECODE 0x51 (95_test_vectors L3-1). -/
theorem test_first_step_runs_the_word : outputsAfter (step (State.reset.withFetchWord 16 0x0D1)) =
    some (true, some 0x5#4, none) := by decide

end Sys2Proof.Tests
end

section
/-!
LATENCY is informative only (spec/00_scope.md R7, spec/70_reset_and_hazards.md R186). Replacing it, `State.withLatency n`,
leaves every field and every derived value that the model reads as it was, so it commutes with each named operation, and
from there with each transaction, each host action, the fetch, and the step.
-/

namespace Sys2Proof.Machine

/-! ### What a change of LATENCY leaves unchanged: PARITY_P, the constants, and what a step reads of the state -/

@[simp] theorem withLatency_parity (n : Nat) (s : State) : (s.withLatency n).config.parity = s.config.parity := rfl
@[simp] theorem withLatency_outData (n : Nat) (s : State) : (s.withLatency n).outData = s.outData := rfl
@[simp] theorem withLatency_fault (n : Nat) (s : State) : (s.withLatency n).fault = s.fault := rfl
@[simp] theorem withLatency_hostIn (n : Nat) (s : State) : (s.withLatency n).hostIn = s.hostIn := rfl
@[simp] theorem withLatency_readDue (n : Nat) (s : State) : (s.withLatency n).readDue = s.readDue := rfl
@[simp] theorem withLatency_script (n : Nat) (s : State) : (s.withLatency n).script = s.script := rfl

/-- The constants depend on `PARITY_P` alone. -/
@[simp] theorem withLatency_code (n : Nat) (s : State) : (s.withLatency n).code = s.code := by
  simp [State.code, configCode]

@[simp] theorem withLatency_multiLane (n : Nat) (s : State) : (s.withLatency n).multiLane = s.multiLane := rfl

@[simp] theorem withLatency_canAccept (n : Nat) (s : State) : (s.withLatency n).canAccept = s.canAccept := rfl

/-! ### The named operations commute with a change of LATENCY -/

theorem raise_withLatency (n : Nat) (f : FaultCode) (s : State) :
    raise f (s.withLatency n) = (raise f s).withLatency n := by
  simp only [raise, withLatency_fault]
  split <;> rfl

theorem putResult_withLatency (n : Nat) (d : Nibble) (s : State) :
    putResult d (s.withLatency n) = (putResult d s).withLatency n := by
  simp only [putResult, apply_ite (State.withLatency n)]
  rfl

theorem popResult_withLatency (n : Nat) (s : State) :
    popResult (s.withLatency n) = (popResult s).withLatency n := by
  simp only [popResult, apply_ite (State.withLatency n)]
  rfl

theorem collect_withLatency (n : Nat) (d : Nibble) (s : State) :
    collect d (s.withLatency n) = (collect d s).withLatency n := by
  simp only [collect, apply_ite (State.withLatency n)]
  rfl

/-! ### The transactions -/

/-- A DECODE with no place for its result has no step. -/
theorem decodeStep_full {c : CodeDef} {r : Block} {s : State} (hf : s.fault = none) (ha : s.canAccept = false) :
    decodeStep c r s = .fault .resultQueueFull := by
  simp [decodeStep, hf, ha]

theorem decodeStep_withLatency (n : Nat) (c : CodeDef) (r : Block) (s : State) :
    decodeStep c r (s.withLatency n) = mapNext (State.withLatency n) (decodeStep c r s) := by
  cases hf : s.fault with
  | some f =>
    rw [decodeStep_faulted hf, decodeStep_faulted (by simpa using hf)]
    rfl
  | none =>
    cases ha : s.canAccept with
    | false =>
      rw [decodeStep_full hf ha, decodeStep_full (by simpa using hf) (by simpa using ha)]
      rfl
    | true =>
      rw [decodeStep_running hf ha, decodeStep_running (by simpa using hf) (by simpa using ha)]
      cases decode7 c r with
      | ok d => simp only [mapNext, putResult_withLatency]
      | error f => simp only [mapNext, raise_withLatency]

theorem execIdle_withLatency (n : Nat) (s : State) :
    execIdle (s.withLatency n) = mapNext (State.withLatency n) (execIdle s) := by
  simp only [execIdle, withLatency_fault]
  cases s.fault <;> rfl

theorem exec_withLatency (n : Nat) (i : Instr) (s : State) :
    exec i (s.withLatency n) = mapNext (State.withLatency n) (exec i s) := by
  cases i with
  | reset => rfl
  | decode r => simpa only [exec, execDecode, withLatency_code] using decodeStep_withLatency n s.code r s
  | idle => exact execIdle_withLatency n s

/-! ### The host actions and the lines -/

theorem hostRead_withLatency (n : Nat) (s : State) :
    hostRead (s.withLatency n) = mapNext (State.withLatency n) (hostRead s) := by
  simp only [hostRead, withLatency_fault, withLatency_outData]
  cases s.fault with
  | some f => rfl
  | none =>
    cases s.outData with
    | none => simp only [mapNext, raise_withLatency]
    | some d => simp only [mapNext, collect_withLatency, popResult_withLatency]

theorem hostStream_withLatency (n : Nat) (xs : List Symbol) (s : State) :
    hostStream xs (s.withLatency n) = mapNext (State.withLatency n) (hostStream xs s) := by
  simp only [hostStream, withLatency_fault]
  cases s.fault with
  | some f => rfl
  | none =>
    cases validate xs with
    | error f => simp only [mapNext, raise_withLatency]
    | ok bits => rfl

theorem runLine_withLatency (n : Nat) (l : Line) (s : State) :
    runLine l (s.withLatency n) = mapNext (State.withLatency n) (runLine l s) := by
  cases l with
  | word w => exact exec_withLatency n (decode w) s
  | read => exact hostRead_withLatency n s
  | stream xs => exact hostStream_withLatency n xs s

/-! ### The fetch and the step -/

/-- A READ that is due is issued first (42_stream R134). -/
theorem fetch_readDue {s : State} (hr : s.readDue = true) :
    fetch s = some (.read, { s with readDue := false }) := by
  simp [fetch, hr]

/-- With no READ due, the framer's next whole block is issued (42_stream R134). -/
theorem fetch_block {s : State} (hr : s.readDue = false) (hl : 7 ≤ s.hostIn.length) :
    fetch s = some (.word (encode (.decode (packBits 7 (s.hostIn.take 7)))),
      { s with hostIn := s.hostIn.drop 7, readDue := true }) := by
  simp [fetch, hr, hl]

/-- With the framer at rest, the program's next line is issued (42_stream R142). -/
theorem fetch_script {s : State} (hr : s.readDue = false) (hl : s.hostIn.length < 7) :
    fetch s = s.script.head?.map fun l => (l, { s with script := s.script.tail }) := by
  have hl' : ¬ 7 ≤ s.hostIn.length := by omega
  cases hs : s.script <;> simp [fetch, hr, hl', hs]

/-- The host issues the same line, and the state it leaves has the other LATENCY. -/
theorem fetch_withLatency (n : Nat) (s : State) :
    fetch (s.withLatency n) = (fetch s).map (Prod.map id (State.withLatency n)) := by
  cases hr : s.readDue with
  | true => rw [fetch_readDue hr, fetch_readDue (by simpa using hr)]; rfl
  | false =>
    by_cases hl : 7 ≤ s.hostIn.length
    · rw [fetch_block hr hl, fetch_block (by simpa using hr) (by simpa using hl)]; rfl
    · rw [fetch_script hr (by omega), fetch_script (by simpa using hr) (by simpa using hl), withLatency_script]
      cases s.script <;> rfl

/-- A host with nothing left has no step. -/
theorem step_of_fetch_none {s : State} (h : fetch s = none) : step s = .fault .runEnded := by
  simp [step, runNext, h]

theorem step_withLatency (n : Nat) (s : State) :
    step (s.withLatency n) = mapNext (State.withLatency n) (step s) := by
  have hfetch := fetch_withLatency n s
  cases h : fetch s with
  | none =>
    rw [h] at hfetch
    rw [step_of_fetch_none h, step_of_fetch_none hfetch]
    rfl
  | some p =>
    obtain ⟨l, s'⟩ := p
    rw [h] at hfetch
    rw [step_of_fetch h, step_of_fetch hfetch]
    exact runLine_withLatency n l s'

/-- Settles O54: a change of LATENCY commutes with the fetch and with every line, so with the step. -/
theorem latencyIsUnobservable : Obligations.LatencyIsUnobservable :=
  fun s n => step_withLatency n s

end Sys2Proof.Machine
end

section
/-!
The datapath with the constants of a built block (spec/41_decode.md R103, R106, R110): every block decodes to a nibble, and
the codeword of a nibble decodes to it with no bit or any one bit flipped.
-/

namespace Sys2Proof.Machine

/-! ### Linearity of the syndrome -/

/-- XOR-ing two words' bits along the same list of positions. -/
theorem foldl_xor_getLsbD_xor {n : Nat} (a b : BitVec n) (ks : List Nat) (x y : Bool) :
    ks.foldl (fun acc k => acc ^^ (a ^^^ b).getLsbD k) (x ^^ y) =
      (ks.foldl (fun acc k => acc ^^ a.getLsbD k) x ^^ ks.foldl (fun acc k => acc ^^ b.getLsbD k) y) := by
  induction ks generalizing x y with
  | nil => rfl
  | cons k ks ih =>
    have hstep : ((x ^^ y) ^^ (a ^^^ b).getLsbD k) = ((x ^^ a.getLsbD k) ^^ (y ^^ b.getLsbD k)) := by
      simp only [BitVec.getLsbD_xor, Bool.xor_assoc, Bool.xor_left_comm]
    rw [List.foldl_cons, List.foldl_cons, List.foldl_cons, hstep, ih]

theorem parity_xor {n : Nat} (a b : BitVec n) : parity (a ^^^ b) = (parity a ^^ parity b) :=
  foldl_xor_getLsbD_xor a b (List.range n) false false

theorem parity_xor_and (r e k : Block) : parity ((r ^^^ e) &&& k) = (parity (r &&& k) ^^ parity (e &&& k)) := by
  have hdist : (r ^^^ e) &&& k = (r &&& k) ^^^ (e &&& k) := by
    ext i hi
    simp [Bool.and_xor_distrib_right]
  rw [hdist, parity_xor]

theorem syndrome_xor (h : CheckMatrix) (r e : Block) : syndrome h (r ^^^ e) = syndrome h r ^^^ syndrome h e := by
  have hbits : ∀ a b c a' b' c' : Bit,
      (BitVec.ofBool (a ^^ a') ++ BitVec.ofBool (b ^^ b') ++ BitVec.ofBool (c ^^ c') : Syndrome) =
        (BitVec.ofBool a ++ BitVec.ofBool b ++ BitVec.ofBool c : Syndrome) ^^^
          (BitVec.ofBool a' ++ BitVec.ofBool b' ++ BitVec.ofBool c' : Syndrome) := by decide
  simp only [syndrome, parity_xor_and]
  exact hbits _ _ _ _ _ _

/-! ### The four built blocks -/

/-- Every nonzero syndrome is the column of a position (R85, R90), so the table has an entry for it. -/
theorem romRead_ne_posNone (n : ParityP) {sv : Syndrome} (h : sv ≠ 0#3) :
    romRead (buildCode (parityRows n)).synTable sv ≠ posNone := by
  rw [buildCode, romRead_buildSynTable]
  cases n <;> revert sv <;> decide

/-- With its own constants a block has no table miss (R103). -/
theorem decode7_total (c : Config) (r : Block) : ∃ d, decode7 (configCode c) r = .ok d := by
  unfold configCode
  by_cases h : syndrome (buildCode (parityRows c.parity)).h r = 0#3
  · exact ⟨_, decode7_of_zero h⟩
  · exact ⟨_, by rw [decode7_of_nonzero h, if_neg (romRead_ne_posNone c.parity h)]⟩

theorem decode7_ne_error (c : Config) (r : Block) (f : FaultCode) : decode7 (configCode c) r ≠ .error f := by
  obtain ⟨d, hd⟩ := decode7_total c r
  simp [hd]

theorem syndrome_encode4 (n : ParityP) (d : Nibble) :
    syndrome (buildCode (parityRows n)).h (encode4 (buildCode (parityRows n)).g d) = 0#3 := by
  cases n <;> revert d <;> decide

theorem extract_encode4 (n : ParityP) (d : Nibble) : extract (encode4 (buildCode (parityRows n)).g d) = d := by
  cases n <;> revert d <;> decide

theorem syndrome_errorAt_ne_zero (n : ParityP) (p : Fin 7) :
    syndrome (buildCode (parityRows n)).h (errorAt p) ≠ 0#3 := by
  cases n <;> revert p <;> decide

/-- The table names the position of a single error from its syndrome (R83). -/
theorem romRead_syndrome_errorAt (n : ParityP) (p : Fin 7) :
    romRead (buildCode (parityRows n)).synTable (syndrome (buildCode (parityRows n)).h (errorAt p)) =
      BitVec.ofNat 3 p := by
  rw [buildCode, romRead_buildSynTable]
  cases n <;> revert p <;> decide

/-- A codeword decodes to its nibble. -/
theorem decode7_codeword (c : Config) (d : Nibble) : decode7 (configCode c) (encode4 (configCode c).g d) = .ok d := by
  unfold configCode
  rw [decode7_of_zero (syndrome_encode4 c.parity d), extract_encode4]

/-- Flipping back the bit an error flipped. -/
theorem bitFlip_xor_errorAt (r : Block) (p : Fin 7) : bitFlip (r ^^^ errorAt p) (BitVec.ofNat 3 p) = r := by
  rw [bitFlip, ← errorAt, BitVec.xor_assoc, BitVec.xor_self, BitVec.xor_zero]

/-- A codeword with one bit flipped decodes to its nibble: the syndrome is that of the flip alone, whose position the
corrector flips back. -/
theorem decode7_single_error (c : Config) (d : Nibble) (p : Fin 7) :
    decode7 (configCode c) (encode4 (configCode c).g d ^^^ errorAt p) = .ok d := by
  unfold configCode
  have hsyn : syndrome (buildCode (parityRows c.parity)).h (encode4 (buildCode (parityRows c.parity)).g d ^^^ errorAt p) =
      syndrome (buildCode (parityRows c.parity)).h (errorAt p) := by
    rw [syndrome_xor, syndrome_encode4, BitVec.zero_xor]
  have hne := syndrome_errorAt_ne_zero c.parity p
  rw [decode7_of_nonzero (by rwa [hsyn]), hsyn, if_neg (romRead_ne_posNone c.parity hne), romRead_syndrome_errorAt,
    bitFlip_xor_errorAt, extract_encode4]

end Sys2Proof.Machine
end

section
/-!
What the block's transactions and the host's actions write and leave unchanged (spec/10_state.md R32 to R37,
spec/41_decode.md R107, R108, spec/70_reset_and_hazards.md R180), with the constants of a built block and of power-up.
-/

namespace Sys2Proof.Machine

/-! ### The block's own DECODE -/

theorem exec_decode (r : Block) (s : State) : exec (.decode r) s = decodeStep s.code r s := rfl

/-- Blocks with the same parameters have the same constants (R25). -/
theorem code_congr {s s' : State} (h : s.config = s'.config) : s.code = s'.code := by
  rw [State.code, State.code, h]

theorem multiLane_congr {s s' : State} (h : s.config = s'.config) : s.multiLane = s'.multiLane := by
  rw [State.multiLane, State.multiLane, h]

/-- Everything a DECODE by the block's own datapath can do: it has no table miss, so it delivers a nibble. -/
theorem exec_decode_next {r : Block} {s t : State} (h : exec (.decode r) s = .next t) :
    s.fault = none ∧ s.canAccept = true ∧ ∃ d, decode7 s.code r = .ok d ∧ t = putResult d s := by
  obtain ⟨hf, ha, ⟨d, hd, rfl⟩ | ⟨f, hd, -⟩⟩ := decodeStep_next h
  · exact ⟨hf, ha, d, hd, rfl⟩
  · exact absurd hd (decode7_ne_error s.config r f)

/-- Two blocks that decode alike have the same DECODE step. -/
theorem decodeStep_congr {c : CodeDef} {r r' : Block} (h : decode7 c r = decode7 c r') (s : State) :
    decodeStep c r s = decodeStep c r' s := by
  unfold decodeStep
  rw [h]

theorem exec_reset_next {s t : State} (h : exec .reset s = .next t) : t = clearInterface s := by
  simpa [exec, execReset] using h.symm

/-! ### Frames -/

/-- No transaction writes the parameters or the host's state (R25, R37). -/
theorem exec_frame {i : Instr} {s t : State} (h : exec i s = .next t) :
    t.config = s.config ∧ t.hostIn = s.hostIn ∧ t.hostOut = s.hostOut ∧ t.hostPad = s.hostPad ∧
      t.readDue = s.readDue ∧ t.script = s.script := by
  obtain ⟨-, rfl⟩ | ⟨r, -, -, -, ⟨d, -, rfl⟩ | ⟨f, -, rfl⟩⟩ | ⟨-, -, rfl⟩ := exec_next h <;> simp

/-- Settles O26: the general frame is `exec_frame`; DECODE delivers a result and IDLE clears `out_valid`, no more. -/
theorem transactionFrames : Obligations.TransactionFrames := by
  refine ⟨fun i s t h => exec_frame h, fun r s t h => ?_, fun s t h => ?_⟩
  · obtain ⟨hf, -, d, -, rfl⟩ := exec_decode_next h
    exact ⟨by simpa using hf, fun hm => by simp [hm]⟩
  · obtain ⟨-, rfl⟩ := execIdle_next h
    exact ⟨rfl, rfl, rfl⟩

/-! ### The outputs -/

/-- Settles O27: both states put the nibble their common constants decode the block to into the output register. -/
theorem resultDependsOnTheBlockAlone : Obligations.ResultDependsOnTheBlockAlone := by
  intro s s' t t' r hc hm h h'
  obtain ⟨hf, -, d, hd, rfl⟩ := exec_decode_next h
  obtain ⟨hf', -, d', hd', rfl⟩ := exec_decode_next h'
  have hm' : s'.multiLane = false := multiLane_congr hc ▸ hm
  have hdd : d = d' := by
    rw [code_congr hc, hd'] at hd
    exact (Except.ok.inj hd).symm
  simp [hm, hm', hf, hf', hdd]

/-- Settles O28: the codeword and the codeword with one bit flipped decode alike. -/
theorem correctionLeavesNoTrace : Obligations.CorrectionLeavesNoTrace := by
  intro s d p
  rw [exec_decode, exec_decode]
  exact decodeStep_congr ((decode7_single_error s.config d p).trans (decode7_codeword s.config d).symm) s

/-- Settles O58, transaction by transaction. -/
theorem outValidAfterEachTransaction : Obligations.OutValidAfterEachTransaction := by
  refine fun s t => ⟨fun ⟨r, h⟩ => ?_, fun h => ?_, fun h => ?_⟩
  · obtain ⟨-, -, d, -, rfl⟩ := exec_decode_next h
    exact putResult_outValid d s
  · obtain ⟨-, rfl⟩ := execIdle_next h
    exact idleOutputs_outValid s
  · rw [exec_reset_next h]
    exact clearInterface_outValid s

/-! ### Constants and power-up -/

/-- Constants that pass both construction checks are the block's (R91). -/
theorem checkCode_ok {c : CodeDef} (ho : orthogonal c.g c.h = true) (hd : columnsDistinct c.h = true) :
    checkCode c = .ok c := by
  simp [checkCode, ho, hd]

/-- Construction succeeds for each of the four parity blocks (R90). -/
theorem construct_parityRows (n : ParityP) : construct (parityRows n) = .ok (buildCode (parityRows n)) :=
  checkCode_ok (by cases n <;> decide) (by cases n <;> decide)

/-- A READ of an unwritten output raises its fault (R155). -/
theorem hostRead_unwritten {s : State} (hf : s.fault = none) (hd : s.outData = none) :
    hostRead s = .next { s with fault := some .unwrittenOutputRead } := by
  simp [hostRead, hf, hd, raise]

/-- Settles O6, table by table. -/
theorem constantsOfEachParityBlock : Obligations.ConstantsOfEachParityBlock := by
  refine ⟨?_, ?_, ?_, ?_, ?_, ?_, ?_, ?_, ?_, ?_⟩ <;> decide

/-- Settles O20: RESET leaves what `clearInterface` does, and the READ after it finds no written output. -/
theorem powerUpState : Obligations.PowerUpState := by
  refine ⟨rfl, rfl, rfl, rfl, rfl, construct_parityRows _, fun s => ?_, rfl⟩
  exact ⟨clearInterface s, rfl, rfl, rfl, rfl, rfl, code_congr rfl, hostRead_unwritten rfl rfl⟩

end Sys2Proof.Machine
end

section
/-!
The invariant of a run (Safety's `RunInv`; spec/42_stream.md R134, R137, spec/60_exceptions.md R151) in two halves. `BlockInv`
speaks of the block and of what was read from it, and is kept by taking a line and by executing any line. `framerConsistent`
speaks of the lines the framer still has to issue, and is kept by a whole step, by where the line came from.
-/

namespace Sys2Proof.Machine

/-- The part of `RunInv` that does not speak of the lines still to be issued. -/
def BlockInv (s : State) : Prop :=
  s.config.wf = true ∧ outputsConsistent s = true ∧ reachableFault s.fault = true ∧ s.hostOut.length % 4 = 0

theorem runInv_iff {s : State} : RunInv s ↔ BlockInv s ∧ framerConsistent s = true := by
  unfold RunInv BlockInv
  tauto

/-! ### The outputs -/

theorem outputsConsistent_multiLane {s : State} (h : s.multiLane = true) :
    outputsConsistent s = true ↔ s.results.length ≤ s.config.lanes ∧ (s.outValid = true → s.results ≠ []) ∧
      (s.results ≠ [] → s.results.head? = s.outData) := by
  cases hv : s.outValid <;> cases hr : s.results <;> simp [outputsConsistent, h, hv, hr]

theorem outputsConsistent_oneLane {s : State} (h : s.multiLane = false) :
    outputsConsistent s = true ↔ s.results = [] ∧ (s.outValid = true → s.outData.isSome = true) := by
  cases hv : s.outValid <;> simp [outputsConsistent, h, hv]

/-- The outputs' consistency depends on the parameters, the outputs and the result queue alone. -/
theorem outputsConsistent_congr {s t : State} (hc : t.config = s.config) (hr : t.results = s.results)
    (hv : t.outValid = s.outValid) (hd : t.outData = s.outData) : outputsConsistent t = outputsConsistent s := by
  simp [outputsConsistent, State.multiLane, hc, hr, hv, hd]

/-- A valid output is a written one, whatever LANES is. -/
theorem outData_of_outValid {s : State} (h : outputsConsistent s = true) (hv : s.outValid = true) :
    ∃ d, s.outData = some d := by
  cases hm : s.multiLane with
  | true =>
    obtain ⟨-, hne, hhead⟩ := (outputsConsistent_multiLane hm).1 h
    obtain ⟨d, rest, hr⟩ := List.exists_cons_of_ne_nil (hne hv)
    exact ⟨d, by rw [← hhead (hne hv), hr, List.head?_cons]⟩
  | false =>
    obtain ⟨-, hsome⟩ := (outputsConsistent_oneLane hm).1 h
    exact Option.isSome_iff_exists.1 (hsome hv)

theorem outputsConsistent_clearInterface (s : State) : outputsConsistent (clearInterface s) = true := by
  simp [outputsConsistent]

theorem outputsConsistent_idleOutputs {s : State} (h : outputsConsistent s = true) :
    outputsConsistent (idleOutputs s) = true := by
  cases hm : s.multiLane with
  | true =>
    obtain ⟨hlen, -, hhead⟩ := (outputsConsistent_multiLane hm).1 h
    exact (outputsConsistent_multiLane (s := idleOutputs s) hm).2 ⟨hlen, nofun, hhead⟩
  | false =>
    obtain ⟨hres, -⟩ := (outputsConsistent_oneLane hm).1 h
    exact (outputsConsistent_oneLane (s := idleOutputs s) hm).2 ⟨hres, nofun⟩

/-- A result is put only where it has a place (R187). -/
theorem outputsConsistent_putResult {s : State} (d : Nibble) (h : outputsConsistent s = true)
    (ha : s.canAccept = true) : outputsConsistent (putResult d s) = true := by
  have hmc : (putResult d s).multiLane = s.multiLane := multiLane_congr (putResult_config d s)
  cases hm : s.multiLane with
  | true =>
    have hroom : s.results.length < s.config.lanes := by simpa [State.canAccept, hm] using ha
    exact (outputsConsistent_multiLane (hmc.trans hm)).2
      ⟨by simpa [hm] using hroom, fun _ => by simp [hm], fun _ => by simp [hm]⟩
  | false =>
    obtain ⟨hres, -⟩ := (outputsConsistent_oneLane hm).1 h
    exact (outputsConsistent_oneLane (hmc.trans hm)).2 ⟨by simp [hm, hres], fun _ => by simp [hm]⟩

/-- After a pop the outputs show the next result, if there is one. -/
theorem outputsConsistent_popResult {s : State} (h : outputsConsistent s = true) :
    outputsConsistent (popResult s) = true := by
  cases hm : s.multiLane with
  | true =>
    obtain ⟨hlen, -, -⟩ := (outputsConsistent_multiLane hm).1 h
    have hlen' : s.results.tail.length ≤ s.config.lanes := by
      rw [List.length_tail]
      omega
    refine (outputsConsistent_multiLane ((multiLane_congr (popResult_config s)).trans hm)).2
      ⟨by simpa [hm] using hlen', ?_, ?_⟩ <;>
    cases hr : s.results.tail <;> simp [hm, hr]
  | false => rwa [popResult_oneLane hm]

theorem outputsConsistent_collect (d : Nibble) (s : State) : outputsConsistent (collect d s) = outputsConsistent s :=
  outputsConsistent_congr (by simp) (by simp) (by simp) (by simp)

theorem outputsConsistent_raise (f : FaultCode) (s : State) : outputsConsistent (raise f s) = outputsConsistent s :=
  outputsConsistent_congr (by simp) (by simp) (by simp) (by simp)

/-! ### Each line keeps the block's half -/

/-- Taking the next line keeps the block's half. -/
theorem fetch_keeps_blockInv {s s' : State} {l : Line} (h : fetch s = some (l, s')) (hi : BlockInv s) : BlockInv s' := by
  obtain ⟨hc, hd, hv, hf, hr, ho, -⟩ := fetch_frame h
  unfold BlockInv
  rwa [outputsConsistent_congr hc hr hv hd, hc, hf, ho]

/-- Every fault a host can raise in a built block is reachable (R151), so raising it keeps the block's half. -/
theorem raise_keeps_blockInv {s : State} {f : FaultCode} (hi : BlockInv s) (hf : s.fault = none)
    (hr : reachableFault (some f) = true) : BlockInv (raise f s) := by
  obtain ⟨hwf, hout, -, hlen⟩ := hi
  exact ⟨by simpa using hwf, by rwa [outputsConsistent_raise], by simpa [hf] using hr, by simpa using hlen⟩

theorem exec_keeps_blockInv {i : Instr} {s t : State} (hi : BlockInv s) (h : exec i s = .next t) : BlockInv t := by
  obtain ⟨hwf, hout, hrf, hlen⟩ := hi
  cases i with
  | reset =>
    rw [exec_reset_next h]
    exact ⟨hwf, outputsConsistent_clearInterface s, rfl, hlen⟩
  | decode r =>
    obtain ⟨-, ha, d, -, rfl⟩ := exec_decode_next h
    exact ⟨by simpa using hwf, outputsConsistent_putResult d hout ha, by simpa using hrf, by simpa using hlen⟩
  | idle =>
    obtain ⟨-, rfl⟩ := execIdle_next h
    exact ⟨hwf, outputsConsistent_idleOutputs hout, hrf, hlen⟩

/-- A READ collects a whole nibble or nothing (R141). -/
theorem collect_hostOut_length_mod (d : Nibble) (s : State) :
    (collect d s).hostOut.length % 4 = s.hostOut.length % 4 := by
  cases hv : s.outValid <;> simp [hv]

theorem hostRead_keeps_blockInv {s t : State} (hi : BlockInv s) (h : hostRead s = .next t) : BlockInv t := by
  obtain ⟨hf, ⟨-, rfl⟩ | ⟨d, -, rfl⟩⟩ := hostRead_next h
  · exact raise_keeps_blockInv hi hf rfl
  · obtain ⟨hwf, hout, hrf, hlen⟩ := hi
    have hout' : outputsConsistent (collect d s) = true := by rwa [outputsConsistent_collect]
    have hlen' : (collect d s).hostOut.length % 4 = 0 := by rwa [collect_hostOut_length_mod]
    exact ⟨by simpa using hwf, outputsConsistent_popResult hout', by simpa using hrf,
      by rwa [popResult_hostOut]⟩

/-- Validation raises INVALID_SYMBOL and no other fault (R133). -/
theorem validate_error {xs : List Symbol} {f : FaultCode} (h : validate xs = .error f) : ∃ i, f = .invalidSymbol i := by
  unfold validate at h
  split at h
  · exact ⟨_, (Except.error.inj h).symm⟩
  · cases h

theorem hostStream_keeps_blockInv {xs : List Symbol} {s t : State} (hi : BlockInv s) (h : hostStream xs s = .next t) :
    BlockInv t := by
  obtain ⟨hf, ⟨f, hv, rfl⟩ | ⟨bits, -, rfl⟩⟩ := hostStream_next h
  · obtain ⟨i, rfl⟩ := validate_error hv
    exact raise_keeps_blockInv hi hf rfl
  · exact hi

theorem runLine_keeps_blockInv {l : Line} {s t : State} (hi : BlockInv s) (h : runLine l s = .next t) : BlockInv t := by
  cases l with
  | word w => exact exec_keeps_blockInv hi h
  | read => exact hostRead_keeps_blockInv hi h
  | stream xs => exact hostStream_keeps_blockInv hi h

/-! ### A step keeps the framer's half -/

/-- The word the framer issues for a block is a DECODE of it (R65, R69). -/
theorem decode_encode_decode (r : Block) : decode (encode (.decode r)) = .decode r := by
  revert r; decide

theorem runLine_decode (r : Block) (s : State) : runLine (.word (encode (.decode r))) s = exec (.decode r) s := by
  rw [runLine, decode_encode_decode]

theorem framerConsistent_iff {s : State} :
    framerConsistent s = true ↔ s.hostIn.length % 7 = 0 ∧ (s.readDue = true → s.outValid = true) ∧
      (s.fault = none ∨ s.readDue = false ∧ s.hostIn = []) := by
  cases hr : s.readDue <;> simp [framerConsistent, hr, and_assoc]

/-- A host that has no READ due and nothing left of a stream has a consistent framer. -/
theorem framerConsistent_of_atRest {s : State} (hr : s.readDue = false) (hi : s.hostIn = []) :
    framerConsistent s = true := by
  simp [framerConsistent, hr, hi]

theorem length_take_whole_blocks (bits : List Bit) : (bits.take (7 * (bits.length / 7))).length % 7 = 0 := by
  rw [List.length_take]
  omega

/-- A READ leaves the stream still to be framed alone, and no READ due where none was. -/
theorem hostRead_frame {s t : State} (h : hostRead s = .next t) : t.hostIn = s.hostIn ∧ t.readDue = s.readDue := by
  obtain ⟨-, ⟨-, rfl⟩ | ⟨d, -, rfl⟩⟩ := hostRead_next h <;> simp

/-- A line executed while the framer has nothing to issue gives it at most a stream of whole blocks, and none on a fault. -/
theorem runLine_atRest_framerConsistent {l : Line} {s t : State} (hr : s.readDue = false) (hin : s.hostIn = [])
    (h : runLine l s = .next t) : framerConsistent t = true := by
  cases l with
  | word w =>
    obtain ⟨-, hin', -, -, hr', -⟩ := exec_frame h
    exact framerConsistent_of_atRest (hr'.trans hr) (hin'.trans hin)
  | read =>
    obtain ⟨hin', hr'⟩ := hostRead_frame h
    exact framerConsistent_of_atRest (hr'.trans hr) (hin'.trans hin)
  | stream xs =>
    obtain ⟨hf, ⟨f, -, rfl⟩ | ⟨bits, -, rfl⟩⟩ := hostStream_next h
    · exact framerConsistent_of_atRest (by simpa using hr) (by simpa using hin)
    · exact framerConsistent_iff.2 ⟨length_take_whole_blocks bits, by simp [hr], .inl hf⟩

/-- A READ that is due finds a written output, so it raises nothing. -/
theorem hostRead_of_outValid {s t : State} (ho : outputsConsistent s = true) (hv : s.outValid = true)
    (h : hostRead s = .next t) : t.fault = none := by
  obtain ⟨d, hd⟩ := outData_of_outValid ho hv
  obtain ⟨hf, ⟨hn, -⟩ | ⟨d', -, rfl⟩⟩ := hostRead_next h
  · simp [hd] at hn
  · simpa using hf

theorem step_keeps_framerConsistent {s t : State} (hb : BlockInv s) (hi : framerConsistent s = true)
    (h : step s = .next t) : framerConsistent t = true := by
  obtain ⟨-, hout, -, -⟩ := hb
  obtain ⟨hmod, hdue, -⟩ := framerConsistent_iff.1 hi
  obtain ⟨l, s', hfetch, hrun⟩ := step_next h
  obtain ⟨hr, rfl, rfl⟩ | ⟨-, hlen, rfl, rfl⟩ | ⟨hr, hlen, rest, -, rfl⟩ := fetch_some hfetch
  case inl => -- the READ is due
    have hf : t.fault = none := hostRead_of_outValid (s := { s with readDue := false }) hout (hdue hr) hrun
    obtain ⟨hin', hr'⟩ := hostRead_frame hrun
    exact framerConsistent_iff.2 ⟨by rwa [hin'], by simp [hr'], .inl hf⟩
  case inr.inl => -- the framer's next block
    rw [runLine_decode] at hrun
    obtain ⟨hf, -, d, -, rfl⟩ := exec_decode_next hrun
    refine framerConsistent_iff.2 ⟨?_, fun _ => putResult_outValid d _, .inl (by simpa using hf)⟩
    simp only [putResult_hostIn, List.length_drop]
    omega
  case inr.inr => -- a line of the program, between streams
    have hin : s.hostIn = [] := List.length_eq_zero_iff.1 (by omega)
    exact runLine_atRest_framerConsistent (s := { s with script := rest }) hr hin hrun

/-! ### The invariant -/

/-- Settles O52: each half of the invariant is kept. -/
theorem everyStepKeepsTheInvariant : Obligations.EveryStepKeepsTheInvariant := by
  intro s t hi h
  obtain ⟨hb, hfr⟩ := runInv_iff.1 hi
  obtain ⟨l, s', hfetch, hrun⟩ := step_next h
  exact runInv_iff.2
    ⟨runLine_keeps_blockInv (fetch_keeps_blockInv hfetch hb) hrun, step_keeps_framerConsistent hb hfr h⟩

/-- Settles O51: after reset nothing is written, queued, read or left to issue. -/
theorem invariantAtReset : Obligations.InvariantAtReset :=
  runInv_iff.2 ⟨⟨rfl, rfl, rfl, rfl⟩, framerConsistent_of_atRest rfl rfl⟩

end Sys2Proof.Machine
end

section
/-!
A host that streams an encoded message (spec/40_code_definition.md R88, spec/42_stream.md R134 to R136, R139): the round trip of
the reference functions, and the framer's run, which collects the nibbles of the stream's whole blocks.
-/

namespace Sys2Proof.Machine

/-! ### The round trip: nibbles to codewords and back -/

/-- The whole nibbles of a sequence of bits, in order. -/
def nibbles (bits : List Bit) : List Nibble := (List.range (bits.length / 4)).map (streamNibble bits)

theorem nibbles_short {bits : List Bit} (h : bits.length < 4) : nibbles bits = [] := by
  simp [nibbles, Nat.div_eq_of_lt h]

theorem nibbles_of_four_le {bits : List Bit} (h : 4 ≤ bits.length) :
    nibbles bits = packBits 4 (bits.take 4) :: nibbles (bits.drop 4) := by
  have hn : bits.length / 4 = (bits.length - 4) / 4 + 1 := by omega
  have hshift (b : Nat) : streamNibble bits (b + 1) = streamNibble (bits.drop 4) b := by
    rw [streamNibble, streamNibble, List.drop_drop, Nat.mul_add, Nat.add_comm (4 * b)]
  rw [nibbles, nibbles, hn, List.range_succ_eq_map, List.map_cons, List.map_map, List.length_drop]
  exact congrArg _ (List.map_congr_left fun b _ => hshift b)

/-- A sequence of whole nibbles is the bits of its nibbles. -/
theorem flatMap_unpackBits_nibbles (bits : List Bit) (h : bits.length % 4 = 0) :
    (nibbles bits).flatMap unpackBits = bits := by
  by_cases hlen : 4 ≤ bits.length
  · have hfirst : unpackBits (packBits 4 (bits.take 4)) = bits.take 4 := by
      have hround := unpackBits_packBits (bits.take 4)
      rwa [List.length_take_of_le hlen] at hround
    have hrest := flatMap_unpackBits_nibbles (bits.drop 4) (by rw [List.length_drop]; omega)
    rw [nibbles_of_four_le hlen, List.flatMap_cons, hfirst, hrest, List.take_append_drop]
  · have hnil : bits = [] := List.length_eq_zero_iff.1 (by omega)
    rw [hnil, nibbles_short (by simp), List.flatMap_nil]
termination_by bits.length
decreasing_by rw [List.length_drop]; omega

/-- The codewords of a list of nibbles, as one stream. -/
def codewords (g : GenMatrix) (ds : List Nibble) : List Bit := ds.flatMap fun d => unpackBits (encode4 g d)

/-- The bits of a message, padded to whole nibbles (R88). -/
def paddedBits (m : List Symbol) : List Bit := m.map symbolBit ++ List.replicate (padCount m.length) false

theorem paddedBits_length_mod (m : List Symbol) : (paddedBits m).length % 4 = 0 := by
  simp only [paddedBits, padCount, List.length_append, List.length_map, List.length_replicate]
  omega

/-- EncodeStream of a binary message is the codewords of its padded nibbles. -/
theorem encodeStream_ok (g : GenMatrix) {m : List Symbol} (h : ∀ x ∈ m, x ≤ 1) :
    encodeStream g m = .ok (codewords g (nibbles (paddedBits m))) := by
  simp [encodeStream, validate_ok h, codewords, nibbles, paddedBits, List.flatMap_map, bind, Except.bind, pure,
    Except.pure]

/-- The codewords of nibbles decode to them. -/
theorem decodeBlocks_codewords (c : Config) (ds : List Nibble) :
    decodeBlocks (configCode c) (codewords (configCode c).g ds) = .ok ds := by
  induction ds with
  | nil => exact decodeBlocks_short (by simp [codewords])
  | cons d ds ih =>
    have hcons : codewords (configCode c).g (d :: ds) =
        unpackBits (encode4 (configCode c).g d) ++ codewords (configCode c).g ds := List.flatMap_cons
    have hlen : (unpackBits (encode4 (configCode c).g d)).length = 7 := unpackBits_length _
    rw [hcons, decodeBlocks_cons (by simp), List.take_left' hlen, List.drop_left' hlen, packBits_unpackBits,
      decode7_codeword, ih]
    rfl

/-! ### The framer's run -/

/-- A run goes on from the state some steps bring it to. -/
theorem endsIn_of_runFor {n : Nat} {s t u : State} (h : runFor n s = t) (hu : EndsIn t u) : EndsIn s u := by
  obtain ⟨k, hk, ho⟩ := hu
  exact ⟨n + k, by rw [runFor_add, h, hk], ho⟩

/-- No fault, no unread result and no READ due: the framer may issue its next block. -/
def FramerFree (s : State) : Prop := s.fault = none ∧ s.results = [] ∧ s.readDue = false

/-- From `s` to `t` the host has read the nibbles `ds`, and its parameters, pad count and program are as they were. -/
def HasRead (s t : State) (ds : List Nibble) : Prop :=
  t.config = s.config ∧ t.hostPad = s.hostPad ∧ t.script = s.script ∧ t.hostOut = s.hostOut ++ ds.flatMap unpackBits

theorem HasRead.config_eq {s t : State} {ds : List Nibble} (h : HasRead s t ds) : t.config = s.config := h.1

theorem HasRead.refl (s : State) : HasRead s s [] := ⟨rfl, rfl, rfl, by simp⟩

theorem HasRead.trans {s t u : State} {ds es : List Nibble} (h : HasRead s t ds) (h' : HasRead t u es) :
    HasRead s u (ds ++ es) := by
  obtain ⟨hc, hp, hs, ho⟩ := h
  obtain ⟨hc', hp', hs', ho'⟩ := h'
  exact ⟨hc'.trans hc, hp'.trans hp, hs'.trans hs, by rw [ho', ho, List.flatMap_append, List.append_assoc]⟩

/-- A run is not over while a line can be fetched and no fault is recorded. -/
theorem runOver_of_fetch {s : State} {p : Line × State} (hf : s.fault = none) (h : fetch s = some p) :
    s.runOver = false := by
  simp [State.runOver, hf, h]

/-- Well-formed or not, a block with no unread result has a place for one. -/
theorem canAccept_of_results_nil {s : State} (h : s.results = []) : s.canAccept = true := by
  cases hm : s.multiLane with
  | true =>
    have hlanes : 1 < s.config.lanes := of_decide_eq_true hm
    simpa [State.canAccept, hm, h] using Nat.zero_lt_of_lt hlanes
  | false => simp [State.canAccept, hm]

/-- A READ of a written output collects it and pops the queue. -/
theorem hostRead_written {d : Nibble} {s : State} (hf : s.fault = none) (hd : s.outData = some d) :
    hostRead s = .next (popResult (collect d s)) := by
  simp [hostRead, hf, hd]

/-- The framer's DECODE of its next block, with no unread result in its way (R134). -/
theorem step_framer_decode {s : State} {d : Nibble} (hs : FramerFree s) (hlen : 7 ≤ s.hostIn.length)
    (hd : decode7 s.code (packBits 7 (s.hostIn.take 7)) = .ok d) :
    step s = .next (putResult d { s with hostIn := s.hostIn.drop 7, readDue := true }) := by
  obtain ⟨hf, hres, hdue⟩ := hs
  have hrun := decodeStep_running (c := s.code) (r := packBits 7 (s.hostIn.take 7))
    (s := { s with hostIn := s.hostIn.drop 7, readDue := true }) hf (canAccept_of_results_nil hres)
  rw [hd] at hrun
  rw [step_of_fetch (fetch_block hdue hlen), runLine_decode, exec_decode]
  exact hrun

/-- The framer's READ after its DECODE (R134). -/
theorem step_framer_read {s : State} {d : Nibble} (hf : s.fault = none) (hdue : s.readDue = true)
    (hd : s.outData = some d) : step s = .next (popResult (collect d { s with readDue := false })) := by
  rw [step_of_fetch (fetch_readDue hdue)]
  exact hostRead_written hf hd

/-- What the framer's READ leaves, with any number of lanes: the nibble is collected and no result is unread. -/
theorem framer_turn_result {s : State} (hs : FramerFree s) (d : Nibble) (bits : List Bit) :
    let t := popResult (collect d { putResult d { s with hostIn := bits, readDue := true } with readDue := false })
    FramerFree t ∧ t.hostIn = bits ∧ HasRead s t [d] := by
  obtain ⟨hf, hres, hdue⟩ := hs
  refine ⟨⟨by simpa using hf, ?_, by simp⟩, by simp, by simp, by simp, by simp, by simp⟩
  cases hm : decide (1 < s.config.lanes) <;> simp [State.multiLane, hm, hres]

/-- The framer's DECODE and READ of its next block: two steps that collect the block's nibble (R134). -/
theorem framer_turn {s : State} (hs : FramerFree s) (hlen : 7 ≤ s.hostIn.length) :
    ∃ d t, decode7 s.code (packBits 7 (s.hostIn.take 7)) = .ok d ∧ runFor 2 s = t ∧ FramerFree t ∧
      t.hostIn = s.hostIn.drop 7 ∧ HasRead s t [d] := by
  obtain ⟨d, hd⟩ := decode7_total s.config (packBits 7 (s.hostIn.take 7))
  obtain ⟨hf, hres, hdue⟩ := hs
  have hout : (putResult d { s with hostIn := s.hostIn.drop 7, readDue := true }).outData = some d := by simp [hres]
  have hstep := step_framer_decode ⟨hf, hres, hdue⟩ hlen hd
  have hread := step_framer_read (s := putResult d { s with hostIn := s.hostIn.drop 7, readDue := true })
    (by simpa using hf) (by simp) hout
  refine ⟨d, _, hd, ?_, framer_turn_result ⟨hf, hres, hdue⟩ d _⟩
  rw [runFor_succ (runOver_of_fetch hf (fetch_block hdue hlen)) hstep,
    runFor_succ (runOver_of_fetch (by simpa using hf) (fetch_readDue (by simp))) hread, runFor]

/-- The framer issues all its whole blocks, and the host reads their nibbles in order (R134, R135). -/
theorem framer_reads_blocks {s : State} (hs : FramerFree s) :
    ∃ n t ds, decodeBlocks s.code s.hostIn = .ok ds ∧ runFor n s = t ∧ FramerFree t ∧ t.hostIn.length < 7 ∧
      HasRead s t ds := by
  by_cases hlen : 7 ≤ s.hostIn.length
  · obtain ⟨d, t, hd, hrun, ht, hin, hread⟩ := framer_turn hs hlen
    obtain ⟨n, u, ds, hds, hrun', hu, hlen', hread'⟩ := framer_reads_blocks ht
    have hcode : t.code = s.code := code_congr hread.config_eq
    have hblocks : decodeBlocks s.code s.hostIn = .ok (d :: ds) := by
      rw [decodeBlocks_cons hlen, hd, ← hin, ← hcode, hds]
      rfl
    exact ⟨2 + n, u, d :: ds, hblocks, by rw [runFor_add, hrun, hrun'], hu, hlen', hread.trans hread'⟩
  · exact ⟨0, s, [], decodeBlocks_short (by omega), rfl, hs, by omega, HasRead.refl s⟩
termination_by s.hostIn.length
decreasing_by rw [hin, List.length_drop]; omega

/-- The blocks of a stream, decoded in order. -/
theorem decodeBlocks_eq_mapM (c : CodeDef) (bits : List Bit) :
    decodeBlocks c bits = ((List.range (bits.length / 7)).map (streamBlock bits)).mapM (decode7 c) := by
  rw [List.mapM_map]
  rfl

theorem streamBlock_take_whole {bits : List Bit} {n b : Nat} (h : b < n) :
    streamBlock (bits.take (7 * n)) b = streamBlock bits b := by
  have hmin : min 7 (7 * n - 7 * b) = 7 := by omega
  rw [streamBlock, streamBlock, List.drop_take, List.take_take, hmin]

/-- Dropping the incomplete tail drops no block (R131). -/
theorem decodeBlocks_take_whole (c : CodeDef) (bits : List Bit) :
    decodeBlocks c (bits.take (7 * (bits.length / 7))) = decodeBlocks c bits := by
  have hn : (bits.take (7 * (bits.length / 7))).length / 7 = bits.length / 7 := by
    rw [List.length_take]
    omega
  rw [decodeBlocks_eq_mapM, decodeBlocks_eq_mapM, hn]
  exact congrArg _ (List.map_congr_left fun b hb => streamBlock_take_whole (List.mem_range.1 hb))

/-- A host at rest with no line left has ended its run (R142). -/
theorem runOver_of_script_nil {s : State} (hs : FramerFree s) (hlen : s.hostIn.length < 7) (hscript : s.script = []) :
    s.runOver = true := by
  obtain ⟨-, -, hdue⟩ := hs
  simp [State.runOver, fetch_script hdue hlen, hscript]

theorem ready_iff {s : State} : s.ready = true ↔ FramerFree s ∧ s.hostIn = [] := by
  cases hr : s.readDue <;> simp [State.ready, FramerFree, hr, and_assoc]

/-- A stream call as the last line of a program: the run ends with the nibbles of the stream's blocks read (R134, R135). -/
theorem endsIn_of_stream {s : State} {xs : List Symbol} (hs : s.ready = true) (hscript : s.script = [.stream xs])
    {bits : List Bit} (hv : validate xs = .ok bits) :
    ∃ t ds, EndsIn s t ∧ decodeBlocks s.code bits = .ok ds ∧ t.fault = none ∧ t.hostPad = s.hostPad ∧
      t.hostOut = s.hostOut ++ ds.flatMap unpackBits := by
  obtain ⟨hfree, hin⟩ := ready_iff.1 hs
  obtain ⟨hf, hres, hdue⟩ := hfree
  have hfetch : fetch s = some (.stream xs, { s with script := [] }) := by
    simp [fetch_script hdue (by simp [hin]), hscript]
  have hstep : step s = .next { s with script := [], hostIn := bits.take (7 * (bits.length / 7)) } := by
    simp [step_of_fetch hfetch, runLine, hostStream, hf, hv]
  obtain ⟨n, t, ds, hds, hrun, ht, hlen, -, hp, hsc, ho⟩ := framer_reads_blocks
    (s := { s with script := [], hostIn := bits.take (7 * (bits.length / 7)) }) ⟨hf, hres, hdue⟩
  have hends : EndsIn t t := endsIn_self (runOver_of_script_nil ht hlen hsc)
  obtain ⟨hft, -, -⟩ := ht
  exact ⟨t, ds, endsIn_step (runOver_of_fetch hf hfetch) hstep (endsIn_of_runFor hrun hends),
    (decodeBlocks_take_whole s.code bits).symm.trans hds, hft, hp, ho⟩

/-! ### The host that sends a message -/

/-- Sending a binary message puts the stream call of its codewords at the end of the program (R88). -/
theorem hostSend_ok {s : State} {m : List Symbol} (h : ∀ x ∈ m, x ≤ 1) :
    hostSend m s = { s with
      script := s.script ++ [.stream ((codewords s.code.g (nibbles (paddedBits m))).map Bool.toNat)]
      hostPad := padCount m.length } := by
  simp [hostSend, encodeStream_ok _ h]

/-- Settles O46: the run of the stream call reads the nibbles the codewords were made of, which are the padded message. -/
theorem hostRecoversItsMessage : Obligations.HostRecoversItsMessage := by
  intro s m hready hscript hout hm
  rw [hostSend_ok hm, hscript]
  obtain ⟨t, ds, hends, hds, hf, hp, ho⟩ := endsIn_of_stream (s := { s with
      script := [.stream ((codewords s.code.g (nibbles (paddedBits m))).map Bool.toNat)], hostPad := padCount m.length })
    hready rfl (validate_map_toNat _)
  have hds' : ds = nibbles (paddedBits m) :=
    Except.ok.inj (hds.symm.trans (decodeBlocks_codewords s.config _))
  have hread : t.hostOut = paddedBits m := by
    rw [ho, hds', flatMap_unpackBits_nibbles _ (paddedBits_length_mod m), hout, List.nil_append]
  refine ⟨t, hends, hf, ?_⟩
  rw [hostMessage, hread, hp]
  simp [paddedBits, symbolBit]

end Sys2Proof.Machine
end

section
/-!
The memory the model has is the received stream (spec/20_memory.md R43): which bits of it a block is, and which bits of
DecodeStream's output the block's nibble is.
-/

namespace Sys2Proof.Machine

/-- A computation that gives a result had one from each of its two parts. -/
theorem exists_ok_of_bind_eq_ok {ε α β : Type} {x : Except ε α} {f : α → Except ε β} {r : β} (h : x >>= f = .ok r) :
    ∃ a, x = .ok a ∧ f a = .ok r := by
  cases x with
  | error e => nomatch h
  | ok a => exact ⟨a, rfl, h⟩

/-- What an output of DecodeStream is made of: the nibbles of a binary input's blocks. -/
theorem decodeStream_eq_ok {c : CodeDef} {xs : List Symbol} {ys : List Bit} (h : decodeStream c xs = .ok ys) :
    ∃ ds, decodeBlocks c (xs.map symbolBit) = .ok ds ∧ ys = ds.flatMap unpackBits := by
  obtain ⟨bits, hbits, hrest⟩ := exists_ok_of_bind_eq_ok h
  obtain ⟨ds, hds, hys⟩ := exists_ok_of_bind_eq_ok hrest
  obtain ⟨-, rfl⟩ := validate_eq_ok.1 hbits
  exact ⟨ds, hds, (Except.ok.inj hys).symm⟩

/-- The nibbles of a stream with a whole block are that block's nibble and those of the rest. -/
theorem decodeBlocks_cons_eq_ok {c : CodeDef} {bits : List Bit} {ds : List Nibble} (hlen : 7 ≤ bits.length)
    (h : decodeBlocks c bits = .ok ds) :
    ∃ d ds', decode7 c (streamBlock bits 0) = .ok d ∧ decodeBlocks c (bits.drop 7) = .ok ds' ∧ ds = d :: ds' := by
  rw [decodeBlocks_cons hlen] at h
  obtain ⟨d, hd, hrest⟩ := exists_ok_of_bind_eq_ok h
  obtain ⟨ds', hds', hcons⟩ := exists_ok_of_bind_eq_ok hrest
  exact ⟨d, ds', hd, hds', (Except.ok.inj hcons).symm⟩

/-- Blocks are seven bits apart. -/
theorem streamBlock_drop (bits : List Bit) (b : Nat) : streamBlock (bits.drop 7) b = streamBlock bits (b + 1) := by
  rw [streamBlock, streamBlock, List.drop_drop, Nat.mul_add, Nat.add_comm (7 * b)]

/-- Nibble `b` of a decoded stream is the decode of block `b`. -/
theorem decodeBlocks_getElem? {c : CodeDef} {bits : List Bit} {ds : List Nibble} {b : Nat}
    (h : decodeBlocks c bits = .ok ds) (hb : b < bits.length / 7) :
    ∃ d, decode7 c (streamBlock bits b) = .ok d ∧ ds[b]? = some d := by
  induction b generalizing bits ds with
  | zero =>
    obtain ⟨d, ds', hd, -, rfl⟩ := decodeBlocks_cons_eq_ok (by omega) h
    exact ⟨d, hd, rfl⟩
  | succ b ih =>
    obtain ⟨d, ds', -, hds', rfl⟩ := decodeBlocks_cons_eq_ok (by omega) h
    rw [← streamBlock_drop, List.getElem?_cons_succ]
    exact ih hds' (by rw [List.length_drop]; omega)

/-- Word `b` of a sequence of `n`-bit words has its bits at `n * b .. n * b + n - 1`. -/
theorem take_drop_flatMap_unpackBits {n b : Nat} {w : BitVec n} {ws : List (BitVec n)} (h : ws[b]? = some w) :
    ((ws.flatMap unpackBits).drop (n * b)).take n = unpackBits w := by
  induction ws generalizing b with
  | nil => nomatch h
  | cons v ws ih =>
    cases b with
    | zero =>
      obtain rfl : v = w := Option.some.inj h
      exact List.take_left' (unpackBits_length v)
    | succ b =>
      rw [List.flatMap_cons, Nat.mul_succ, Nat.add_comm, ← List.drop_drop, List.drop_left' (unpackBits_length v)]
      exact ih h

theorem streamBlock_map_symbolBit (xs : List Symbol) (b : Nat) :
    streamBlock (xs.map symbolBit) b = packBits 7 (((xs.drop (7 * b)).take 7).map (· == 1)) := by
  rw [streamBlock, ← List.map_drop, ← List.map_take]
  rfl

/-- Settles O38: block `b` decodes to nibble `b` of the stream's nibbles, which is four bits wide in the output. -/
theorem blocksDecodeInOrder : Obligations.BlocksDecodeInOrder := by
  intro c xs ys b h hb
  obtain ⟨ds, hds, rfl⟩ := decodeStream_eq_ok h
  obtain ⟨d, hd, hget⟩ := decodeBlocks_getElem? hds (by rwa [List.length_map])
  exact ⟨d, by rwa [← streamBlock_map_symbolBit], take_drop_flatMap_unpackBits hget⟩

end Sys2Proof.Machine
end

section
/-!
The step word as its three fields (spec/30_encoding.md R60): every word is `stepWord` of them and masking acts field by field,
so the decoder, the encoder and the opcode table's masks (R65, R69) are each one equation in the fields.
-/

namespace Sys2Proof.Machine

/-! ### The fields of a step word -/

theorem stepWord_getLsbD (rst v : Bit) (r : Block) (k : Nat) :
    (stepWord rst v r).getLsbD k =
      if k < 7 then r.getLsbD k else (BitVec.ofBool rst ++ BitVec.ofBool v).getLsbD (k - 7) :=
  BitVec.getLsbD_append

@[simp] theorem wordRst_stepWord (rst v : Bit) (r : Block) : wordRst (stepWord rst v r) = rst := by
  rw [wordRst, stepWord_getLsbD]
  cases rst <;> cases v <;> rfl

@[simp] theorem wordInValid_stepWord (rst v : Bit) (r : Block) : wordInValid (stepWord rst v r) = v := by
  rw [wordInValid, stepWord_getLsbD]
  cases rst <;> cases v <;> rfl

theorem wordInBlock_getLsbD (w : StepWord) {k : Nat} (hk : k < 7) : (wordInBlock w).getLsbD k = w.getLsbD k := by
  simp [wordInBlock, hk]

@[simp] theorem wordInBlock_stepWord (rst v : Bit) (r : Block) : wordInBlock (stepWord rst v r) = r :=
  BitVec.eq_of_getLsbD_eq fun k hk => by rw [wordInBlock_getLsbD _ hk, stepWord_getLsbD, if_pos hk]

theorem stepWord_fields (w : StepWord) : stepWord (wordRst w) (wordInValid w) (wordInBlock w) = w := by
  refine BitVec.eq_of_getLsbD_eq fun k hk => ?_
  obtain hblock | rfl | rfl : k < 7 ∨ k = 7 ∨ k = 8 := by omega
  · rw [stepWord_getLsbD, if_pos hblock, wordInBlock_getLsbD w hblock]
  · exact wordInValid_stepWord _ _ _
  · exact wordRst_stepWord _ _ _

/-- Every word is the step word of some fields. -/
theorem exists_stepWord (w : StepWord) : ∃ rst v r, w = stepWord rst v r :=
  ⟨wordRst w, wordInValid w, wordInBlock w, (stepWord_fields w).symm⟩

@[simp] theorem stepWord_inj {rst rst' v v' : Bit} {r r' : Block} :
    stepWord rst v r = stepWord rst' v' r' ↔ rst = rst' ∧ v = v' ∧ r = r' := by
  constructor
  · intro h
    have hrst := congrArg wordRst h
    have hv := congrArg wordInValid h
    have hr := congrArg wordInBlock h
    simp only [wordRst_stepWord, wordInValid_stepWord, wordInBlock_stepWord] at hrst hv hr
    exact ⟨hrst, hv, hr⟩
  · rintro ⟨rfl, rfl, rfl⟩
    rfl

@[simp] theorem stepWord_and (rst rst' v v' : Bit) (r r' : Block) :
    stepWord rst v r &&& stepWord rst' v' r' = stepWord (rst && rst') (v && v') (r &&& r') := by
  refine BitVec.and_append.trans ?_
  rw [BitVec.and_append, BitVec.ofBool_and_ofBool, BitVec.ofBool_and_ofBool]
  rfl

/-! ### The decoder, the encoder and the used bits, field by field -/

/-- `rst` has priority, then `in_valid` (R65). -/
@[simp] theorem decode_stepWord (rst v : Bit) (r : Block) :
    decode (stepWord rst v r) = if rst then .reset else if v then .decode r else .idle := by
  simp only [decode, wordRst_stepWord, wordInValid_stepWord, wordInBlock_stepWord]

theorem decode_eq_reset_iff (rst v : Bit) (r : Block) : decode (stepWord rst v r) = .reset ↔ rst = true := by
  cases rst <;> cases v <;> simp

theorem decode_eq_decode_iff (rst v : Bit) (r : Block) :
    decode (stepWord rst v r) = .decode r ↔ rst = false ∧ v = true := by
  cases rst <;> cases v <;> simp

theorem decode_eq_idle_iff (rst v : Bit) (r : Block) : decode (stepWord rst v r) = .idle ↔ rst = false ∧ v = false := by
  cases rst <;> cases v <;> simp

theorem encode_reset : encode .reset = stepWord true false 0#7 := rfl

theorem encode_idle : encode .idle = stepWord false false 0#7 := rfl

theorem encode_decode (r : Block) : encode (.decode r) = stepWord false true r := by
  revert r; decide

theorem usedMask_reset : usedMask .reset = stepWord true false 0#7 := rfl

/-- A DECODE uses every bit of its word. -/
theorem and_usedMask_decode (w : StepWord) (r : Block) : w &&& usedMask (.decode r) = w := BitVec.and_allOnes

theorem usedMask_idle : usedMask .idle = stepWord true true 0#7 := rfl

/-- Settles O4: an encoded transaction has the fields the decoder reads; and encoding a decoded word keeps `rst`, `in_valid`
unless it is a RESET, and `in_block` when it is a DECODE, which are the bits the transaction uses. -/
theorem decodeEncodeAgree : Obligations.DecodeEncodeAgree := by
  refine ⟨fun i _ => ?_, fun w => ?_⟩
  · cases i with
    | reset => rw [encode_reset, decode_stepWord, if_pos rfl]
    | decode r => exact decode_encode_decode r
    | idle => rw [encode_idle, decode_stepWord]; rfl
  · obtain ⟨rst, v, r, rfl⟩ := exists_stepWord w
    rw [decode_stepWord]
    cases rst with
    | true => simp [encode_reset, usedMask_reset]
    | false =>
      cases v with
      | true => simp [encode_decode, and_usedMask_decode]
      | false => simp [encode_idle, usedMask_idle]

/-- Settles O1: the fields of a built word, and the bits each field and each part of a block is read from. -/
theorem stepWordFields : Obligations.StepWordFields := by
  refine ⟨fun rst v r => ⟨wordRst_stepWord rst v r, wordInValid_stepWord rst v r, wordInBlock_stepWord rst v r⟩,
    fun w k hk => wordInBlock_getLsbD w hk, fun w => ⟨rfl, rfl⟩, fun r => ⟨fun k hk => ?_, fun k hk => ?_⟩⟩
  · simp [blockData, hk]
  · simp [blockParity, hk]

/-- Words that agree in the bits the first one's transaction uses select the same transaction (R65, R66). -/
theorem decode_eq_of_and_usedMask {w w' : StepWord} (h : w' &&& usedMask (decode w) = w &&& usedMask (decode w)) :
    decode w' = decode w := by
  obtain ⟨rst, v, r, rfl⟩ := exists_stepWord w
  obtain ⟨rst', v', r', rfl⟩ := exists_stepWord w'
  cases rst with
  | true =>
    have hrst : rst' = true := by simpa [usedMask_reset] using h
    simp [hrst]
  | false =>
    cases v with
    | true =>
      obtain ⟨hrst, hv, hr⟩ : rst' = false ∧ v' = true ∧ r' = r := by simpa [and_usedMask_decode] using h
      simp [hrst, hv, hr]
    | false =>
      obtain ⟨hrst, hv⟩ : rst' = false ∧ v' = false := by simpa [usedMask_idle] using h
      simp [hrst, hv]

/-- Settles O2: the table's masks and matches are step words themselves, so each row is a condition on `rst` and `in_valid`. -/
theorem wordsSelectTransactions : Obligations.WordsSelectTransactions := by
  intro w
  obtain ⟨rst, v, r, rfl⟩ := exists_stepWord w
  have hblock : (stepWord rst v r).extractLsb' 0 7 = r := wordInBlock_stepWord rst v r
  have hmaskReset : 0x100#9 = stepWord true false 0#7 := rfl
  have hmask : 0x180#9 = stepWord true true 0#7 := rfl
  have hmatchDecode : 0x080#9 = stepWord false true 0#7 := rfl
  have hmatchIdle : 0x000#9 = stepWord false false 0#7 := rfl
  rw [hblock, hmaskReset, hmask, hmatchDecode, hmatchIdle]
  refine ⟨?_, ?_, ?_, ?_, fun v' r' => by simp, fun w' => decode_eq_of_and_usedMask⟩
  · rw [decode_eq_reset_iff]; simp
  · rw [decode_eq_decode_iff]; simp
  · rw [decode_eq_idle_iff]; simp
  · rw [decode_eq_reset_iff, decode_eq_decode_iff, decode_eq_idle_iff]
    cases rst <;> cases v <;> decide

/-- Settles O5: each word's `rst`, `in_valid` and `in_block` are read off its digits. -/
theorem writtenOutWordsDecode : Obligations.WrittenOutWordsDecode := by
  refine ⟨?_, ?_, ?_, ?_, ?_, ?_, ?_, ?_⟩ <;> decide

/-! ### No word is illegal -/

/-- In an unfaulted block with a place for a result every transaction takes a step and raises nothing (R66). -/
theorem exec_of_canAccept (i : Instr) {s : State} (hf : s.fault = none) (ha : s.canAccept = true) :
    ∃ t, exec i s = .next t ∧ t.fault = none := by
  cases i with
  | reset => exact ⟨clearInterface s, rfl, rfl⟩
  | decode r =>
    obtain ⟨d, hd⟩ : ∃ d, decode7 s.code r = .ok d := decode7_total s.config r
    exact ⟨putResult d s, by rw [exec_decode, decodeStep_running hf ha, hd], by rw [putResult_fault, hf]⟩
  | idle => exact ⟨idleOutputs s, by simp [exec, execIdle, hf], by rw [idleOutputs_fault, hf]⟩

/-- Settles O3: what holds of every transaction holds of the one a word selects; the other clauses are the decoder's test
for a ninth bit. -/
theorem noStepWordIsIllegal : Obligations.NoStepWordIsIllegal := by
  refine ⟨fun w s hf ha => exec_of_canAccept (decode w) hf ha, fun n hn => ?_, fun n hn => ?_⟩
  · exact if_pos hn
  · exact if_neg (Nat.not_lt.2 hn)

end Sys2Proof.Machine
end

section
/-!
The lines a STREAM stands for (spec/30_encoding.md R71): a DECODE and a READ for each whole block. A program of such lines reads
the blocks' nibbles as the framer does (spec/42_stream.md R134), and a stream with no whole block is no line at all.
-/

namespace Sys2Proof.Machine

/-! ### The expansion -/

/-- The two lines of a block: its DECODE, then the READ of its result (R71). -/
def blockLines (r : Block) : List Line := [.word (encode (.decode r)), .read]

/-- The lines of a valid stream are those of its blocks in order. -/
theorem expandStream_of_validate {xs : List Symbol} {bits : List Bit} (h : validate xs = .ok bits) :
    expandStream xs = .ok (((List.range (bits.length / 7)).map (streamBlock bits)).flatMap blockLines) := by
  simp [expandStream, h, List.flatMap_map, blockLines]

/-- A stream that expands to lines is a valid one. -/
theorem expandStream_eq_ok {xs : List Symbol} {ls : List Line} (h : expandStream xs = .ok ls) :
    ∃ bits, validate xs = .ok bits ∧ ls = ((List.range (bits.length / 7)).map (streamBlock bits)).flatMap blockLines := by
  cases hv : validate xs with
  | error f => simp [expandStream, hv] at h
  | ok bits => exact ⟨bits, rfl, Except.ok.inj (h.symm.trans (expandStream_of_validate hv))⟩

/-- An unfaulted host frames the whole blocks of a valid stream (R133, R134). -/
theorem hostStream_of_validate {xs : List Symbol} {bits : List Bit} {s : State} (hf : s.fault = none)
    (h : validate xs = .ok bits) :
    hostStream xs s = .next { s with hostIn := bits.take (7 * (bits.length / 7)) } := by
  simp [hostStream, hf, h]

/-- A valid stream of fewer than seven bits decodes to nothing. -/
theorem decodeStream_short (c : CodeDef) {xs : List Symbol} {bits : List Bit} (h : validate xs = .ok bits)
    (hlen : bits.length < 7) : decodeStream c xs = .ok [] := by
  simp [decodeStream, h, decodeBlocks_short hlen, bind, Except.bind, pure, Except.pure]

/-- Settles O37: six bits or fewer hold no whole block. -/
theorem shortStreamGivesNothing : Obligations.ShortStreamGivesNothing := by
  intro xs hlen hbin
  have hv := validate_ok hbin
  have hshort : (xs.map symbolBit).length < 7 := by rw [List.length_map]; omega
  have hblocks : (xs.map symbolBit).length / 7 = 0 := Nat.div_eq_of_lt hshort
  refine ⟨fun c => decodeStream_short c hv hshort, ?_, fun s hf => ?_⟩
  · rw [expandStream_of_validate hv, hblocks]
    rfl
  · rw [hostStream_of_validate hf hv, hblocks]
    rfl

/-! ### The run of the lines of blocks -/

theorem HasRead.script_eq {s t : State} {ds : List Nibble} (h : HasRead s t ds) : t.script = s.script := by
  obtain ⟨-, -, hs, -⟩ := h
  exact hs

theorem HasRead.withScript {s t : State} {ds : List Nibble} (h : HasRead s t ds) (ls : List Line) :
    HasRead { s with script := ls } { t with script := ls } ds := by
  obtain ⟨hc, hp, -, ho⟩ := h
  exact ⟨hc, hp, rfl, ho⟩

/-- What the host still has to issue does not change what a DECODE delivers. -/
theorem putResult_withScript (d : Nibble) (s : State) (ls ls' : List Line) :
    { putResult d { s with script := ls } with script := ls' } = putResult d { s with script := ls' } :=
  apply_ite (fun t : State => { t with script := ls' }) _ _ _

theorem putResult_withReadDue (d : Nibble) (s : State) (b b' : Bit) :
    { putResult d { s with readDue := b } with readDue := b' } = putResult d { s with readDue := b' } :=
  apply_ite (fun t : State => { t with readDue := b' }) _ _ _

/-- A READ right after a DECODE leaves what the framer's does, whoever issues the two. -/
theorem read_after_decode {s : State} (hs : FramerFree s) (d : Nibble) :
    let t := popResult (collect d (putResult d s))
    FramerFree t ∧ t.hostIn = s.hostIn ∧ HasRead s t [d] := by
  have hframer := framer_turn_result hs d s.hostIn
  obtain ⟨-, -, hdue⟩ := hs
  have hrest : { s with readDue := false } = s := by rw [← hdue]
  rwa [putResult_withReadDue, hrest] at hframer

/-- With the framer at rest, the first line of the program is issued (42_stream R142). -/
theorem fetch_cons {s : State} {l : Line} {rest : List Line} (hr : s.readDue = false) (hl : s.hostIn.length < 7)
    (hs : s.script = l :: rest) : fetch s = some (l, { s with script := rest }) := by
  simp [fetch_script hr hl, hs]

/-- A DECODE with a place for its result delivers the block's nibble. -/
theorem exec_decode_of_ok {s : State} {r : Block} {d : Nibble} (hf : s.fault = none) (ha : s.canAccept = true)
    (hd : decode7 s.code r = .ok d) : exec (.decode r) s = .next (putResult d s) := by
  rw [exec_decode, decodeStep_running hf ha, hd]

/-- The DECODE and the READ of a block, as the next two lines of a program: two steps that collect the block's nibble. -/
theorem script_turn {s : State} {r : Block} {rest : List Line} (hs : FramerFree s) (hlen : s.hostIn.length < 7)
    (hscript : s.script = blockLines r ++ rest) :
    ∃ d t, decode7 s.code r = .ok d ∧ runFor 2 s = t ∧ FramerFree t ∧ t.hostIn = s.hostIn ∧
      HasRead { s with script := rest } t [d] := by
  obtain ⟨d, hd⟩ := decode7_total s.config r
  have hturn := read_after_decode (s := { s with script := rest }) hs d
  obtain ⟨hf, hres, hdue⟩ := hs
  have hfetch : fetch s = some (.word (encode (.decode r)), { s with script := .read :: rest }) :=
    fetch_cons hdue hlen hscript
  have hdecode : step s = .next (putResult d { s with script := .read :: rest }) := by
    rw [step_of_fetch hfetch, runLine_decode]
    exact exec_decode_of_ok hf (canAccept_of_results_nil hres) hd
  have hfetch' : fetch (putResult d { s with script := .read :: rest }) =
      some (.read, putResult d { s with script := rest }) := by
    rw [fetch_cons (by simpa using hdue) (by simpa using hlen) (putResult_script d _), putResult_withScript]
  have hread : step (putResult d { s with script := .read :: rest }) =
      .next (popResult (collect d (putResult d { s with script := rest }))) := by
    rw [step_of_fetch hfetch']
    exact hostRead_written (by simpa using hf) (by simp [hres])
  refine ⟨d, _, hd, ?_, hturn⟩
  rw [runFor_succ (runOver_of_fetch hf hfetch) hdecode,
    runFor_succ (runOver_of_fetch (by simpa using hf) hfetch') hread, runFor]

/-- A program of the lines of blocks reads their nibbles in order. -/
theorem script_reads_blocks {s : State} {rs : List Block} (hs : FramerFree s) (hlen : s.hostIn.length < 7)
    (hscript : s.script = rs.flatMap blockLines) :
    ∃ n t ds, rs.mapM (decode7 s.code) = .ok ds ∧ runFor n s = t ∧ FramerFree t ∧ t.hostIn.length < 7 ∧
      HasRead { s with script := [] } t ds := by
  induction rs generalizing s with
  | nil => exact ⟨0, s, [], rfl, rfl, hs, hlen, rfl, rfl, hscript, by simp⟩
  | cons r rs ih =>
    obtain ⟨d, t, hd, hrun, ht, hin, hread⟩ := script_turn hs hlen hscript
    obtain ⟨n, u, ds, hds, hrun', hu, hlen', hread'⟩ := ih ht (by rwa [hin]) hread.script_eq
    have hcode : t.code = s.code := code_congr hread.config_eq
    refine ⟨2 + n, u, d :: ds, ?_, by rw [runFor_add, hrun, hrun'], hu, hlen', (hread.withScript []).trans hread'⟩
    rw [hcode] at hds
    rw [List.mapM_cons, hd, hds]
    rfl

/-- The run of a program of the lines of blocks ends with their nibbles read. -/
theorem endsIn_of_blockLines {s : State} {rs : List Block} (hs : s.ready = true)
    (hscript : s.script = rs.flatMap blockLines) :
    ∃ t ds, EndsIn s t ∧ rs.mapM (decode7 s.code) = .ok ds ∧
      observation t = (s.hostOut ++ ds.flatMap unpackBits, none) := by
  obtain ⟨hfree, hin⟩ := ready_iff.1 hs
  obtain ⟨n, t, ds, hds, hrun, ht, hlen, -, -, hend, ho⟩ := script_reads_blocks hfree (by simp [hin]) hscript
  have hends : EndsIn t t := endsIn_self (runOver_of_script_nil ht hlen hend)
  obtain ⟨hf, -, -⟩ := ht
  exact ⟨t, ds, endsIn_of_runFor hrun hends, hds, by rw [observation, ho, hf]⟩

/-- Settles O44: the stream call and the lines both end with the nibbles of the stream's blocks read. -/
theorem expansionRunsAsTheStreamCall : Obligations.ExpansionRunsAsTheStreamCall := by
  intro s xs ls hready hscript hexpand
  obtain ⟨bits, hv, hls⟩ := expandStream_eq_ok hexpand
  obtain ⟨t, ds, hends, hds, hf, -, ho⟩ := endsIn_of_stream hready hscript hv
  obtain ⟨u, es, hends', hes, hobs⟩ := endsIn_of_blockLines (s := { s with script := ls }) hready hls
  have hsame : ds = es := Except.ok.inj (hds.symm.trans ((decodeBlocks_eq_mapM s.code bits).trans hes))
  exact ⟨t, u, hends, hends', by rw [hobs, observation, ho, hf, hsame]⟩

end Sys2Proof.Machine
end

section
/-!
The assembler (spec/30_encoding.md R69, R70): an operand has a value exactly when it is well formed, and which value it has.
-/

namespace Sys2Proof.Machine

/-! ### Acceptance -/

/-- A function applied to a result neither makes nor loses one. -/
theorem exists_map_eq_ok {ε α β : Type} {f : α → β} {x : Except ε α} :
    (∃ b, x.map f = .ok b) ↔ ∃ a, x = .ok a := by
  cases x <;> simp [Except.map]

/-- A checked value is there exactly when the check passes. -/
theorem exists_ite_eq_ok {ε α : Type} {p : Prop} [Decidable p] {a : α} {e : ε} :
    (∃ b, (if p then Except.ok a else Except.error e) = .ok b) ↔ p := by
  by_cases h : p <;> simp [h]

theorem evalNibble_ok_iff (e : NibbleExpr) : (∃ d, evalNibble e = .ok d) ↔ e.wf = true := by
  cases e with
  | hex n => exact exists_ite_eq_ok.trans decide_eq_true_iff.symm
  | seq ds => exact exists_ite_eq_ok

/-- An operand has a value under any generator exactly when it is well formed. -/
theorem evalBlock_ok_iff (g : GenMatrix) (e : BlockExpr) : (∃ r, evalBlock g e = .ok r) ↔ e.wf = true := by
  induction e with
  | hex n => exact exists_ite_eq_ok.trans decide_eq_true_iff.symm
  | seq rs => exact exists_ite_eq_ok
  | cw d => exact exists_map_eq_ok.trans (evalNibble_ok_iff d)
  | flip b p ih =>
    rw [BlockExpr.wf, Bool.and_eq_true, decide_eq_true_iff, ← ih, evalBlock]
    cases evalBlock g b with
    | error err => simp
    | ok r => simp [exists_ite_eq_ok]

/-- Settles O57: only a DECODE line has an operand to check. -/
theorem assemblerAcceptsTheWellFormed : Obligations.AssemblerAcceptsTheWellFormed := by
  intro g l
  cases l with
  | reset => exact ⟨fun _ => ⟨_, rfl⟩, fun _ => rfl⟩
  | idle => exact ⟨fun _ => ⟨_, rfl⟩, fun _ => rfl⟩
  | decode b => exact (evalBlock_ok_iff g b).symm.trans exists_map_eq_ok.symm
  | read => exact ⟨fun _ => ⟨_, rfl⟩, fun _ => rfl⟩
  | stream xs => exact ⟨fun _ => ⟨_, rfl⟩, fun _ => rfl⟩

/-! ### Values -/

/-- A hex block in range is the DECODE word's low bits (R69). -/
theorem encode_decode_ofNat {n : Nat} (h : n < 128) :
    encode (.decode (BitVec.ofNat 7 n)) = 0x080#9 ||| BitVec.ofNat 9 n := by
  have hwide : (BitVec.ofNat 7 n).setWidth 9 = BitVec.ofNat 9 n :=
    BitVec.eq_of_toNat_eq (by simp [Nat.mod_eq_of_lt h])
  rw [encode, hwide]

/-- Seven bits in order are the block they are the bits of. -/
theorem evalBlock_seq_unpackBits (g : GenMatrix) (r : Block) :
    evalBlock g (.seq ((unpackBits r).map Bool.toNat)) = .ok r := by
  have hwf : (BlockExpr.seq ((unpackBits r).map Bool.toNat)).wf = true := by
    simp [BlockExpr.wf]
  have hbits : ((unpackBits r).map Bool.toNat).map symbolBit = unpackBits r := by
    simp [Function.comp_def]
  rw [evalBlock, if_pos hwf, hbits, packBits_unpackBits]

/-- A flip at one of the seven positions flips that bit (R70). -/
theorem evalBlock_flip {g : GenMatrix} {b : BlockExpr} {r : Block} (h : evalBlock g b = .ok r) (p : Fin 7) :
    evalBlock g (.flip b p) = .ok (r ^^^ errorAt p) := by
  rw [evalBlock, h]
  exact if_pos p.isLt

/-- Settles O56, clause by clause. -/
theorem assemblerOperands : Obligations.AssemblerOperands := by
  refine ⟨fun g => ⟨rfl, rfl, rfl⟩, fun g n hn => ?_, fun g n hn => ?_, fun g n hn => ?_,
    fun g b r p h => evalBlock_flip h p, evalBlock_seq_unpackBits, fun n => ?_⟩
  · rw [assembleLine, evalBlock, if_pos hn, ← encode_decode_ofNat hn]
    rfl
  · rw [assembleLine, evalBlock, if_neg (Nat.not_lt.2 hn)]
    rfl
  · rw [evalBlock, evalNibble, if_pos hn]
    rfl
  · cases n <;> rfl

end Sys2Proof.Machine
end

section
/-!
The code definition (spec/40_code_definition.md R81 to R91): the entries of the built matrices and why they are orthogonal, the
construction checks, the syndrome table of a parity-check matrix with distinct nonzero columns, the reference encoder, and an
encoded message's length and round trip (R88, spec/42_stream.md R139).
-/

namespace Sys2Proof.Machine

/-! ### The rows of the built matrices -/

/-- Row `m` of a parity block. -/
def parityRow (p : ParityBlock) (m : Nat) : BitVec 3 := [p.p0, p.p1, p.p2, p.p3].getD m 0#3

/-- Row `m` of `[I₄ | P]` (R81). -/
def genRow (p : ParityBlock) (m : Nat) : Block := parityRow p m ++ 1#4 <<< m

theorem buildG_rows (p : ParityBlock) :
    [(buildG p).g0, (buildG p).g1, (buildG p).g2, (buildG p).g3] = (List.range 4).map (genRow p) := rfl

theorem buildH_rows (p : ParityBlock) :
    [(buildH p).h0, (buildH p).h1, (buildH p).h2] = (List.range 3).map (buildHRow p) := rfl

/-- Column `k` of a parity block, the left part of row `k` of `[Pᵗ | I₃]`. -/
def parityColumn (p : ParityBlock) (k : Nat) : BitVec 4 :=
  packBits 4 [p.p0.getLsbD k, p.p1.getLsbD k, p.p2.getLsbD k, p.p3.getLsbD k]

theorem buildHRow_eq (p : ParityBlock) (k : Nat) : buildHRow p k = 1#3 <<< k ++ parityColumn p k := rfl

/-- A parity block and its transpose. -/
theorem parityColumn_getLsbD (p : ParityBlock) (k : Nat) {m : Nat} (hm : m < 4) :
    (parityColumn p k).getLsbD m = (parityRow p m).getLsbD k := by
  have hmap : [p.p0.getLsbD k, p.p1.getLsbD k, p.p2.getLsbD k, p.p3.getLsbD k].getD m false =
      (parityRow p m).getLsbD k := by
    rw [parityRow, ← List.getD_map (f := fun r : BitVec 3 => r.getLsbD k)]
    simp
  rw [parityColumn, packBits_getLsbD, hmap, decide_eq_true hm, Bool.true_and]

/-- Row `k` of an identity matrix. -/
theorem one_shiftLeft_getLsbD {n k : Nat} (hk : k < n) (j : Nat) : (1#n <<< k).getLsbD j = decide (j = k) := by
  rw [← BitVec.twoPow_eq, BitVec.getLsbD_twoPow, decide_eq_true hk, Bool.true_and]
  exact decide_eq_decide.2 eq_comm

theorem genRow_getLsbD (p : ParityBlock) {m : Nat} (hm : m < 4) (j : Nat) :
    (genRow p m).getLsbD j = if j < 4 then decide (j = m) else (parityRow p m).getLsbD (j - 4) := by
  rw [genRow, BitVec.getLsbD_append, one_shiftLeft_getLsbD hm]

theorem buildHRow_getLsbD (p : ParityBlock) {k : Nat} (hk : k < 3) (j : Nat) :
    (buildHRow p k).getLsbD j = if j < 4 then (parityRow p j).getLsbD k else decide (j - 4 = k) := by
  rw [buildHRow_eq, BitVec.getLsbD_append, one_shiftLeft_getLsbD hk]
  split
  · next hj => exact parityColumn_getLsbD p k hj
  · rfl

theorem getD_map_range {α : Type} (f : Nat → α) {i n : Nat} (hi : i < n) (a : α) :
    ((List.range n).map f).getD i a = f i := by
  simp [hi]

/-- Settles O7: the rows of `[I₄ | P]` and `[Pᵗ | I₃]`, bit by bit. -/
theorem matricesAreSystematic : Obligations.MatricesAreSystematic := by
  intro p
  refine ⟨fun m hm j _ => ?_, fun k hk j _ => ?_⟩
  · rw [buildG_rows, getD_map_range _ hm]
    exact genRow_getLsbD p hm j
  · rw [buildH_rows, getD_map_range _ hk]
    exact buildHRow_getLsbD p hk j

/-! ### Orthogonality -/

/-- The XOR of a word's bits under a single-bit mask is the bit there. -/
theorem parity_and_one_shiftLeft {n k : Nat} (hk : k < n) (w : BitVec n) :
    parity (w &&& 1#n <<< k) = w.getLsbD k := by
  have hprefix (l : Nat) : (List.range l).foldl (fun acc j => acc ^^ (w &&& 1#n <<< k).getLsbD j) false =
      (decide (k < l) && w.getLsbD k) := by
    induction l with
    | zero => rfl
    | succ l ih =>
      rw [List.range_succ, List.foldl_append, ih, List.foldl_cons, List.foldl_nil, BitVec.getLsbD_and,
        one_shiftLeft_getLsbD hk]
      obtain hlt | rfl | hgt := Nat.lt_trichotomy k l
      · simp [hlt, Nat.lt_succ_of_lt hlt, hlt.ne']
      · simp
      · simp [hgt.ne, Nat.not_lt.2 hgt.le, Nat.not_lt.2 (Nat.succ_le_of_lt hgt)]
  rw [parity, hprefix, decide_eq_true hk, Bool.true_and]

/-- The XOR of bits from a first value is that value XOR the XOR from 0. -/
theorem foldl_xor_start (f : Nat → Bit) (ks : List Nat) (x : Bit) :
    ks.foldl (fun acc k => acc ^^ f k) x = (x ^^ ks.foldl (fun acc k => acc ^^ f k) false) := by
  induction ks generalizing x with
  | nil => simp
  | cons k ks ih => rw [List.foldl_cons, List.foldl_cons, ih, ih (false ^^ f k), Bool.false_xor, Bool.xor_assoc]

theorem parity_append {m n : Nat} (a : BitVec m) (b : BitVec n) : parity (a ++ b) = (parity b ^^ parity a) := by
  have hlow : (List.range n).foldl (fun acc k => acc ^^ (a ++ b).getLsbD k) false = parity b :=
    List.foldl_ext _ _ _ fun acc k hk => by rw [BitVec.getLsbD_append, if_pos (List.mem_range.1 hk)]
  have hhigh (k : Nat) : (a ++ b).getLsbD (n + k) = a.getLsbD k := by
    simp [BitVec.getLsbD_append]
  have hrange : List.range (m + n) = List.range n ++ (List.range m).map (n + ·) := by rw [Nat.add_comm, List.range_add]
  rw [parity, hrange, List.foldl_append, hlow, List.foldl_map, foldl_xor_start]
  simp only [hhigh, parity]

/-- Row `m` of `G` meets row `k` of `H` in `P[m][k]` twice: once in `P`, once in its transpose. -/
theorem parity_genRow_and_buildHRow (p : ParityBlock) {m k : Nat} (hm : m < 4) (hk : k < 3) :
    parity (genRow p m &&& buildHRow p k) = false := by
  have hsplit : genRow p m &&& buildHRow p k =
      (parityRow p m &&& 1#3 <<< k) ++ (parityColumn p k &&& 1#4 <<< m) := by
    rw [genRow, buildHRow_eq, BitVec.and_append, BitVec.and_comm (1#4 <<< m)]
  rw [hsplit, parity_append, parity_and_one_shiftLeft hm, parity_and_one_shiftLeft hk, parityColumn_getLsbD p k hm,
    Bool.xor_self]

/-- Check 1 holds for every parity block (R84). -/
theorem orthogonal_build (p : ParityBlock) : orthogonal (buildG p) (buildH p) = true := by
  rw [orthogonal, buildG_rows, buildH_rows]
  simp only [List.all_map, List.all_eq_true, List.mem_range, Function.comp_apply]
  intro m hm k hk
  rw [parity_genRow_and_buildHRow p hm hk, Bool.not_false]

/-! ### Construction -/

theorem checkCode_of_not_orthogonal {c : CodeDef} (h : orthogonal c.g c.h = false) :
    checkCode c = .error (.constructionInconsistency .orthogonality) := by
  simp [checkCode, h]

/-- The second check is reached only by orthogonal constants (R91). -/
theorem checkCode_of_not_columnsDistinct {c : CodeDef} (ho : orthogonal c.g c.h = true)
    (hd : columnsDistinct c.h = false) : checkCode c = .error (.constructionInconsistency .distinctColumns) := by
  simp [checkCode, ho, hd]

/-- Settles O9: check 1 never fails of a built block, so check 2 decides. -/
theorem constructionChecks : Obligations.ConstructionChecks :=
  ⟨orthogonal_build, fun p hd => checkCode_ok (orthogonal_build p) hd,
    fun p hd => checkCode_of_not_columnsDistinct (orthogonal_build p) hd,
    fun _ ho => checkCode_of_not_orthogonal ho, construct_parityRows⟩

/-! ### The syndrome table -/

theorem columnsDistinct_iff {h : CheckMatrix} :
    columnsDistinct h = true ↔ ((List.range 7).map (column h)).Nodup ∧ ∀ i < 7, column h i ≠ 0#3 := by
  simp [columnsDistinct]

/-- Distinct columns are named by their positions. -/
theorem column_inj {h : CheckMatrix} (hd : columnsDistinct h = true) {i j : Nat} (hi : i < 7) (hj : j < 7) :
    column h i = column h j ↔ i = j := by
  obtain ⟨hnodup, -⟩ := columnsDistinct_iff.1 hd
  exact ⟨fun he => List.inj_on_of_nodup_map hnodup (List.mem_range.2 hi) (List.mem_range.2 hj) he, congrArg _⟩

theorem column_ne_zero {h : CheckMatrix} (hd : columnsDistinct h = true) {i : Nat} (hi : i < 7) : column h i ≠ 0#3 := by
  obtain ⟨-, hne⟩ := columnsDistinct_iff.1 hd
  exact hne i hi

/-- Seven distinct nonzero columns are all the nonzero syndromes there are. -/
theorem exists_column_eq {h : CheckMatrix} (hd : columnsDistinct h = true) {sv : Syndrome} (hsv : sv ≠ 0#3) :
    ∃ i < 7, column h i = sv := by
  obtain ⟨hnodup, hne⟩ := columnsDistinct_iff.1 hd
  have hnodup' : (0#3 :: (List.range 7).map (column h)).Nodup :=
    List.nodup_cons.2 ⟨by simpa using hne, hnodup⟩
  have hall := Finset.eq_univ_of_card _ (List.toFinset_card_of_nodup hnodup')
  have hmem : sv ∈ (0#3 :: (List.range 7).map (column h)).toFinset := hall ▸ Finset.mem_univ sv
  simpa [hsv] using hmem

theorem romRead_zero {h : CheckMatrix} (hd : columnsDistinct h = true) : romRead (buildSynTable h) 0#3 = posNone := by
  simp [romRead_buildSynTable, column_ne_zero hd]

/-- No later position overwrites the entry of a column. -/
theorem romRead_column {h : CheckMatrix} (hd : columnsDistinct h = true) {i : Nat} (hi : i < 7) :
    romRead (buildSynTable h) (column h i) = BitVec.ofNat 3 i := by
  have hcol (j : Nat) (hj : j < 7) : column h j = column h i ↔ j = i := column_inj hd hj hi
  rw [romRead_buildSynTable]
  simp only [hcol, Nat.reduceLT]
  interval_cases i <;> rfl

/-- The entry of a column is a position, so it is not NONE. -/
theorem romRead_column_ne_posNone {h : CheckMatrix} (hd : columnsDistinct h = true) {i : Nat} (hi : i < 7) :
    romRead (buildSynTable h) (column h i) ≠ posNone := by
  rw [romRead_column hd hi]
  interval_cases i <;> decide

/-- Different columns have different entries. -/
theorem romRead_column_inj {h : CheckMatrix} (hd : columnsDistinct h = true) {i j : Nat} (hi : i < 7) (hj : j < 7)
    (he : romRead (buildSynTable h) (column h i) = romRead (buildSynTable h) (column h j)) : i = j := by
  rw [romRead_column hd hi, romRead_column hd hj] at he
  have hnat := congrArg BitVec.toNat he
  simp only [BitVec.toNat_ofNat] at hnat
  omega

/-- No two syndromes share an entry. -/
theorem romRead_buildSynTable_inj {h : CheckMatrix} (hd : columnsDistinct h = true) {sv sv' : Syndrome}
    (he : romRead (buildSynTable h) sv = romRead (buildSynTable h) sv') : sv = sv' := by
  have hcases (v : Syndrome) : v = 0#3 ∨ ∃ i < 7, column h i = v := or_iff_not_imp_left.2 (exists_column_eq hd)
  obtain rfl | ⟨i, hi, rfl⟩ := hcases sv <;> obtain rfl | ⟨j, hj, rfl⟩ := hcases sv'
  · rfl
  · rw [romRead_zero hd] at he
    exact absurd he.symm (romRead_column_ne_posNone hd hj)
  · rw [romRead_zero hd] at he
    exact absurd he (romRead_column_ne_posNone hd hi)
  · exact congrArg _ (romRead_column_inj hd hi hj he)

/-- Settles O8: every nonzero syndrome is one position's column, and that position is its entry. -/
theorem tableHoldsEachPosition : Obligations.TableHoldsEachPosition := by
  refine fun h hd => ⟨romRead_zero hd, fun i hi => romRead_column hd hi, fun sv hsv => ?_,
    fun sv sv' he => romRead_buildSynTable_inj hd he⟩
  obtain ⟨i, hi, rfl⟩ := exists_column_eq hd hsv
  exact ⟨i, hi, romRead_column hd hi, rfl⟩

/-! ### The encoder -/

theorem scaleRow_getLsbD (b : Bit) (row : Block) (j : Nat) : (scaleRow b row).getLsbD j = (b && row.getLsbD j) := by
  cases b <;> simp [scaleRow]

/-- The bits of a codeword: those of `d · G` over GF(2) (R86). -/
theorem encode4_getLsbD (g : GenMatrix) (d : Nibble) (j : Nat) :
    (encode4 g d).getLsbD j =
      ((d.getLsbD 0 && g.g0.getLsbD j) ^^ (d.getLsbD 1 && g.g1.getLsbD j) ^^
        (d.getLsbD 2 && g.g2.getLsbD j) ^^ (d.getLsbD 3 && g.g3.getLsbD j)) := by
  simp only [encode4, BitVec.getLsbD_xor, scaleRow_getLsbD]

/-- The first four bits of a codeword are its data bits. -/
theorem encode4_data_getLsbD (n : ParityP) (d : Nibble) {k : Nat} (hk : k < 4) :
    (encode4 (buildG (parityRows n)) d).getLsbD k = d.getLsbD k := by
  have hbits : (extract (encode4 (buildG (parityRows n)) d)).getLsbD k = d.getLsbD k :=
    congrArg (BitVec.getLsbD · k) (extract_encode4 n d)
  simpa [extract, blockData, hk] using hbits

/-- Parity bit `k` of a codeword is column `k` of the parity block times the data bits. -/
theorem encode4_parity_getLsbD (p : ParityBlock) (d : Nibble) (k : Nat) :
    (encode4 (buildG p) d).getLsbD (4 + k) =
      ((d.getLsbD 0 && p.p0.getLsbD k) ^^ (d.getLsbD 1 && p.p1.getLsbD k) ^^
        (d.getLsbD 2 && p.p2.getLsbD k) ^^ (d.getLsbD 3 && p.p3.getLsbD k)) := by
  have hrow (m : Nat) (hm : m < 4) : (genRow p m).getLsbD (4 + k) = (parityRow p m).getLsbD k := by
    rw [genRow_getLsbD p hm, if_neg (by omega), Nat.add_sub_cancel_left]
  have h0 : (buildG p).g0.getLsbD (4 + k) = p.p0.getLsbD k := hrow 0 (by decide)
  have h1 : (buildG p).g1.getLsbD (4 + k) = p.p1.getLsbD k := hrow 1 (by decide)
  have h2 : (buildG p).g2.getLsbD (4 + k) = p.p2.getLsbD k := hrow 2 (by decide)
  have h3 : (buildG p).g3.getLsbD (4 + k) = p.p3.getLsbD k := hrow 3 (by decide)
  rw [encode4_getLsbD, h0, h1, h2, h3]

/-- Settles O11: the parity equations are the parity bits with the columns of `P_A`. -/
theorem encoderParityEquations : Obligations.EncoderParityEquations := by
  refine ⟨fun g d j _ => encode4_getLsbD g d j, fun d => ⟨fun k hk => encode4_data_getLsbD .pA d hk, ?_, ?_, ?_⟩,
    fun n => ?_⟩
  · exact (encode4_parity_getLsbD _ d 0).trans (by simp [parityRows])
  · exact (encode4_parity_getLsbD _ d 1).trans (by simp [parityRows])
  · exact (encode4_parity_getLsbD _ d 2).trans (by simp [parityRows])
  · cases n <;> decide

/-! ### Encoded messages -/

theorem codewords_length (g : GenMatrix) (ds : List Nibble) : (codewords g ds).length = 7 * ds.length := by
  simp [codewords, Nat.mul_comm]

/-- A message of `L` symbols is padded to `⌈L/4⌉` nibbles. -/
theorem nibbles_paddedBits_length (m : List Symbol) : (nibbles (paddedBits m)).length = (m.length + 3) / 4 := by
  simp only [nibbles, paddedBits, padCount, List.length_map, List.length_range, List.length_append,
    List.length_replicate]
  omega

/-- Settles O39: seven bits for each nibble of the padded message. -/
theorem encodeStreamLength : Obligations.EncodeStreamLength := by
  refine ⟨fun g m hm => ⟨_, encodeStream_ok g hm, ?_⟩, fun g => rfl, rfl⟩
  rw [codewords_length, nibbles_paddedBits_length]

/-- DecodeStream of a valid stream is the bits of its blocks' nibbles. -/
theorem decodeStream_of_decodeBlocks {c : CodeDef} {xs : List Symbol} {bits : List Bit} {ds : List Nibble}
    (hv : validate xs = .ok bits) (hds : decodeBlocks c bits = .ok ds) :
    decodeStream c xs = .ok (ds.flatMap unpackBits) := by
  rw [decodeStream, hv]
  exact congrArg (· >>= fun ds => pure (ds.flatMap unpackBits)) hds

/-- Settles O40: the codewords decode to the nibbles of the padded message, whose bits it is. -/
theorem roundTripWithPadding : Obligations.RoundTripWithPadding := by
  refine fun c m hm => ⟨_, encodeStream_ok _ hm, ?_⟩
  rw [decodeStream_of_decodeBlocks (validate_map_toNat _) (decodeBlocks_codewords c _),
    flatMap_unpackBits_nibbles _ (paddedBits_length_mod m)]
  rfl

end Sys2Proof.Machine
end

section
/-!
The datapath stage by stage (spec/41_decode.md R100 to R105, R109): the syndrome bit by bit, the blocks of syndrome 0, the
table miss, the corrector, and a double error.
-/

namespace Sys2Proof.Machine

/-! ### The syndrome -/

theorem parity_block (r : Block) :
    parity r = (r.getLsbD 0 ^^ r.getLsbD 1 ^^ r.getLsbD 2 ^^ r.getLsbD 3 ^^ r.getLsbD 4 ^^ r.getLsbD 5 ^^ r.getLsbD 6) := by
  have hrange : List.range 7 = [0, 1, 2, 3, 4, 5, 6] := rfl
  simp [parity, hrange]

theorem syndrome_getLsbD (h : CheckMatrix) (r : Block) :
    (syndrome h r).getLsbD 0 = parity (r &&& h.h0) ∧ (syndrome h r).getLsbD 1 = parity (r &&& h.h1) ∧
      (syndrome h r).getLsbD 2 = parity (r &&& h.h2) := by
  have hbits : ∀ a b c : Bit, let s : Syndrome := BitVec.ofBool c ++ BitVec.ofBool b ++ BitVec.ofBool a
      s.getLsbD 0 = a ∧ s.getLsbD 1 = b ∧ s.getLsbD 2 = c := by decide
  exact hbits _ _ _

/-- The syndrome of a single error is the column of its position, for any `H`. -/
theorem syndrome_errorAt (h : CheckMatrix) (p : Fin 7) : syndrome h (errorAt p) = column h p := by
  have hone : ∀ p : Fin 7, errorAt p = 1#7 <<< p.val := by decide
  have hrow (row : Block) : parity (errorAt p &&& row) = row.getLsbD p := by
    rw [hone, BitVec.and_comm, parity_and_one_shiftLeft p.isLt]
  simp only [syndrome, column, hrow]

/-- A built check matrix reads the parity bits of a block without data bits off unchanged: its right part is `I₃` (R82). -/
theorem syndrome_buildH_append_zero (p : ParityBlock) (q : BitVec 3) : syndrome (buildH p) (q ++ 0#4) = q := by
  have hrow (k : Nat) (hk : k < 3) : parity ((q ++ 0#4) &&& buildHRow p k) = q.getLsbD k := by
    rw [buildHRow_eq, BitVec.and_append, BitVec.zero_and, parity_append, parity_and_one_shiftLeft hk]
    exact Bool.false_xor _
  obtain ⟨h0, h1, h2⟩ := syndrome_getLsbD (buildH p) (q ++ 0#4)
  refine BitVec.eq_of_getLsbD_eq fun k hk => ?_
  interval_cases k
  · exact h0.trans (hrow 0 hk)
  · exact h1.trans (hrow 1 hk)
  · exact h2.trans (hrow 2 hk)

theorem blockData_xor (r e : Block) : blockData (r ^^^ e) = blockData r ^^^ blockData e :=
  BitVec.extractLsb'_xor

theorem blockParity_append_blockData (r : Block) : blockParity r ++ blockData r = r :=
  (BitVec.extractLsb'_append_extractLsb'_eq_extractLsb' (by rfl)).trans BitVec.extractLsb'_eq_self

/-- No block but 0 has syndrome 0 and no data bits. -/
theorem eq_zero_of_syndrome_of_blockData {p : ParityBlock} {r : Block} (hs : syndrome (buildH p) r = 0#3)
    (hd : blockData r = 0#4) : r = 0#7 := by
  rw [← blockParity_append_blockData r, hd] at hs ⊢
  rw [syndrome_buildH_append_zero] at hs
  rw [hs]
  rfl

/-- A block of syndrome 0 differs from the codeword of its data bits by a block of syndrome 0 without data bits. -/
theorem encode4_blockData {c : Config} {r : Block} (hs : syndrome (configCode c).h r = 0#3) :
    encode4 (configCode c).g (blockData r) = r := by
  have hsyn : syndrome (configCode c).h (encode4 (configCode c).g (blockData r) ^^^ r) = 0#3 := by
    rw [syndrome_xor, hs, BitVec.xor_zero]
    exact syndrome_encode4 c.parity _
  have hdata : blockData (encode4 (configCode c).g (blockData r) ^^^ r) = 0#4 := by
    rw [blockData_xor, BitVec.xor_eq_zero_iff]
    exact extract_encode4 c.parity _
  exact BitVec.xor_eq_zero_iff.1 (eq_zero_of_syndrome_of_blockData hsyn hdata)

theorem syndrome_eq_zero_iff (c : Config) (r : Block) :
    syndrome (configCode c).h r = 0#3 ↔ ∃ d, encode4 (configCode c).g d = r := by
  refine ⟨fun hs => ⟨_, encode4_blockData hs⟩, ?_⟩
  rintro ⟨d, rfl⟩
  exact syndrome_encode4 c.parity d

theorem syndrome_encode4_xor (c : Config) (d : Nibble) (e : Block) :
    syndrome (configCode c).h (encode4 (configCode c).g d ^^^ e) = syndrome (configCode c).h e := by
  rw [syndrome_xor, (syndrome_eq_zero_iff c _).2 ⟨d, rfl⟩, BitVec.zero_xor]

/-- The syndrome equations of `P_A` are the parities of the rows of its `H`. -/
theorem syndrome_pA_getLsbD (r : Block) :
    (syndrome (buildH (parityRows .pA)) r).getLsbD 0 =
      (r.getLsbD 0 ^^ r.getLsbD 1 ^^ r.getLsbD 3 ^^ r.getLsbD 4) ∧
    (syndrome (buildH (parityRows .pA)) r).getLsbD 1 =
      (r.getLsbD 0 ^^ r.getLsbD 2 ^^ r.getLsbD 3 ^^ r.getLsbD 5) ∧
    (syndrome (buildH (parityRows .pA)) r).getLsbD 2 =
      (r.getLsbD 1 ^^ r.getLsbD 2 ^^ r.getLsbD 3 ^^ r.getLsbD 6) := by
  obtain ⟨-, hH, -⟩ := constantsOfEachParityBlock
  obtain ⟨h0, h1, h2⟩ := syndrome_getLsbD (buildH (parityRows .pA)) r
  rw [h0, h1, h2, hH]
  simp [parity_block]

/-- Settles O13: linearity reduces the syndrome of any block to those of codewords and of blocks without data bits. -/
theorem syndromeEquations : Obligations.SyndromeEquations := by
  obtain ⟨-, hH, -⟩ := constantsOfEachParityBlock
  refine ⟨parity_block, syndrome_getLsbD, syndrome_xor, syndrome_eq_zero_iff, fun c d p => ?_, syndrome_pA_getLsbD, hH,
    ?_, ?_⟩
  · rw [syndrome_encode4_xor, syndrome_errorAt]
  · decide
  · decide

/-! ### The table miss -/

/-- A nonzero syndrome without a table entry is a fault (R103). -/
theorem decode7_of_miss {c : CodeDef} {r : Block} (hs : syndrome c.h r ≠ 0#3)
    (hm : romRead c.synTable (syndrome c.h r) = posNone) : decode7 c r = .error (.internalInvariant (syndrome c.h r)) := by
  rw [decode7_of_nonzero hs, if_pos hm]

theorem raise_of_unfaulted {f : FaultCode} {s : State} (hf : s.fault = none) : raise f s = { s with fault := some f } := by
  rw [raise, hf]

/-- A DECODE whose datapath answers a fault records it (R107). -/
theorem decodeStep_of_error {c : CodeDef} {r : Block} {s : State} {f : FaultCode} (hf : s.fault = none)
    (ha : s.canAccept = true) (he : decode7 c r = .error f) : decodeStep c r s = .next { s with fault := some f } := by
  rw [decodeStep_running hf ha, he, ← raise_of_unfaulted hf]

/-- Settles O14: the miss faults, and a DECODE records what its datapath answers. -/
theorem tableMissIsAFault : Obligations.TableMissIsAFault :=
  ⟨fun _ _ hs hm => decode7_of_miss hs hm, decode7_total,
    fun _ _ _ hf ha hs hm => decodeStep_of_error hf ha (decode7_of_miss hs hm)⟩

/-! ### The corrector -/

/-- With its own constants a block decodes a nonzero syndrome by the table's entry, which is never NONE. -/
theorem decode7_of_lookup {c : Config} {r : Block} (hs : syndrome (configCode c).h r ≠ 0#3) :
    decode7 (configCode c) r =
      .ok (blockData (bitFlip r (romRead (configCode c).synTable (syndrome (configCode c).h r)))) :=
  (decode7_of_nonzero hs).trans (if_neg (romRead_ne_posNone c.parity hs))

theorem blockData_bitFlip (r : Block) (p : PosCode) : blockData (bitFlip r p) = blockData r ^^^ blockData (onehot7 p) :=
  blockData_xor r (onehot7 p)

/-- Positions 4, 5 and 6, and NONE, lie outside the data bits. -/
theorem blockData_onehot7_of_parity {p : PosCode} : 4 ≤ p.toNat → blockData (onehot7 p) = 0#4 := by
  revert p
  decide

theorem bitFlip_posNone (r : Block) : bitFlip r posNone = r := BitVec.xor_zero

/-- A block's distance to its XOR with an error is the error's weight. -/
theorem distance_xor (r e : Block) : distance r (r ^^^ e) = distance 0#7 e := by
  have hbit (k : Nat) : (r.getLsbD k != (r ^^^ e).getLsbD k) = ((0#7).getLsbD k != e.getLsbD k) := by
    rw [BitVec.getLsbD_xor, BitVec.getLsbD_zero]
    cases r.getLsbD k <;> cases e.getLsbD k <;> rfl
  simp only [distance, hbit]

/-- The corrector changes at most one bit (R104). -/
theorem distance_bitFlip_le_one (r : Block) (p : PosCode) : distance r (bitFlip r p) ≤ 1 := by
  rw [bitFlip, distance_xor]
  revert p
  decide

/-- Settles O15: the lookup in two cases, then what the flip does to the data bits. -/
theorem correctorFlipsTheLookedUpBit : Obligations.CorrectorFlipsTheLookedUpBit := by
  refine fun c r => ⟨fun hs => decode7_of_zero hs, fun hs => ?_, fun hs hp => ?_, fun p => ⟨distance_bitFlip_le_one r p, ?_⟩⟩
  · rw [decode7_of_lookup hs, blockData_bitFlip]
  · rw [decode7_of_lookup hs, blockData_bitFlip, blockData_onehot7_of_parity hp, BitVec.xor_zero]
  · rintro rfl
    exact bitFlip_posNone r

/-! ### A double error -/

theorem columnsDistinct_parityRows (n : ParityP) : columnsDistinct (buildH (parityRows n)) = true := by
  cases n <;> decide

/-- The corrector flips a bit that clears the syndrome: the position the table names is that of the column the syndrome is. -/
theorem syndrome_bitFlip_lookup {c : Config} {r : Block} (hs : syndrome (configCode c).h r ≠ 0#3) :
    syndrome (configCode c).h (bitFlip r (romRead (configCode c).synTable (syndrome (configCode c).h r))) = 0#3 := by
  obtain ⟨i, hi, hcol⟩ := exists_column_eq (columnsDistinct_parityRows c.parity) hs
  have hpos : romRead (configCode c).synTable (syndrome (configCode c).h r) = BitVec.ofNat 3 i := by
    rw [← hcol]
    exact romRead_column (columnsDistinct_parityRows c.parity) hi
  have hflip : syndrome (configCode c).h (onehot7 (BitVec.ofNat 3 i)) = syndrome (configCode c).h r :=
    (syndrome_errorAt _ ⟨i, hi⟩).trans hcol
  rw [hpos, bitFlip, syndrome_xor, hflip, BitVec.xor_self]

/-- A block decodes to the nibble of a codeword that one flip, or none, makes of it. -/
theorem exists_encode4_eq_bitFlip {c : Config} {r : Block} {d : Nibble} (h : decode7 (configCode c) r = .ok d) :
    ∃ pos, encode4 (configCode c).g d = bitFlip r pos := by
  by_cases hs : syndrome (configCode c).h r = 0#3
  · rw [decode7_of_zero hs] at h
    obtain rfl : blockData r = d := Except.ok.inj h
    exact ⟨posNone, (encode4_blockData hs).trans (bitFlip_posNone r).symm⟩
  · rw [decode7_of_lookup hs] at h
    obtain rfl := Except.ok.inj h
    exact ⟨_, encode4_blockData (syndrome_bitFlip_lookup hs)⟩

/-- Two flips are not undone by one flip or none. -/
theorem errorAt_xor_errorAt_ne_onehot7 {p q : Fin 7} (pos : PosCode) : p ≠ q → errorAt p ^^^ errorAt q ≠ onehot7 pos := by
  revert p q pos
  decide

/-- A codeword with two bits flipped decodes, to another nibble (R109): one more flip does not give the codeword back. -/
theorem decode7_double_error (c : Config) (d : Nibble) {p q : Fin 7} (hpq : p ≠ q) :
    ∃ d', d' ≠ d ∧ decode7 (configCode c) (encode4 (configCode c).g d ^^^ errorAt p ^^^ errorAt q) = .ok d' := by
  obtain ⟨d', hd'⟩ := decode7_total c (encode4 (configCode c).g d ^^^ errorAt p ^^^ errorAt q)
  refine ⟨d', ?_, hd'⟩
  rintro rfl
  obtain ⟨pos, hpos⟩ := exists_encode4_eq_bitFlip hd'
  rw [bitFlip, BitVec.xor_assoc _ (errorAt p), BitVec.xor_assoc] at hpos
  have hzero : errorAt p ^^^ errorAt q ^^^ onehot7 pos = 0#7 :=
    (BitVec.xor_right_inj _).1 (hpos.symm.trans BitVec.xor_zero.symm)
  exact errorAt_xor_errorAt_ne_onehot7 pos hpq (BitVec.xor_eq_zero_iff.1 hzero)

end Sys2Proof.Machine
end

section
/-!
DECODE and IDLE (spec/41_decode.md R107 to R109): DECODE with one lane as one record update, by what the block decodes to, and
IDLE with any number of lanes.
-/

namespace Sys2Proof.Machine

/-! ### DECODE with one lane -/

theorem canAccept_oneLane {s : State} (hm : s.multiLane = false) : s.canAccept = true := by
  simp [State.canAccept, hm]

theorem putResult_oneLane {s : State} (hm : s.multiLane = false) (d : Nibble) :
    putResult d s = { s with outData := some d, outValid := true } := by
  simp [putResult, hm]

/-- DECODE with one lane writes its nibble into the output register (R107). -/
theorem exec_decode_oneLane {s : State} {r : Block} {d : Nibble} (hf : s.fault = none) (hm : s.multiLane = false)
    (hd : decode7 s.code r = .ok d) :
    exec (.decode r) s = .next { s with outData := some d, outValid := true } := by
  rw [exec_decode_of_ok hf (canAccept_oneLane hm) hd, putResult_oneLane hm]

theorem exec_decode_faulted {s : State} {f : FaultCode} (r : Block) (hf : s.fault = some f) :
    exec (.decode r) s = .fault (.blockFaulted f) :=
  decodeStep_faulted hf

/-- `0x55` is the codeword of `0x5` under every parity block (R90). -/
theorem decode7_0x55 (c : Config) : decode7 (configCode c) 0x55#7 = .ok 0x5#4 := by
  obtain ⟨-, -, hcw⟩ := encoderParityEquations
  obtain ⟨hcw, -, -⟩ := hcw c.parity
  rw [← hcw]
  exact decode7_codeword c 0x5#4

/-- `0x51` is that codeword with bit 2 flipped. -/
theorem decode7_0x51 (c : Config) : decode7 (configCode c) 0x51#7 = .ok 0x5#4 := by
  obtain ⟨-, -, hcw⟩ := encoderParityEquations
  obtain ⟨hcw, -, -⟩ := hcw c.parity
  have hflip : 0x51#7 = encode4 (configCode c).g 0x5#4 ^^^ errorAt 2 := by
    rw [configCode, buildCode, hcw]
    decide
  rw [hflip]
  exact decode7_single_error c 0x5#4 2

/-- Under `P_A`, `0x03` is the codeword of `0x7` with bit 2 flipped. -/
theorem decode7_0x03 {c : Config} (hp : c.parity = .pA) : decode7 (configCode c) 0x03#7 = .ok 0x7#4 := by
  have hflip : 0x03#7 = encode4 (configCode c).g 0x7#4 ^^^ errorAt 2 := by
    rw [configCode, hp]
    decide
  rw [hflip]
  exact decode7_single_error c 0x7#4 2

/-- Settles O17: the datapath answers another nibble, and DECODE delivers what it answers. -/
theorem doubleErrorMiscorrected : Obligations.DoubleErrorMiscorrected := by
  refine ⟨fun s d p q hf hm hpq => ?_, fun s hp hf hm => exec_decode_oneLane hf hm (decode7_0x03 hp)⟩
  obtain ⟨d', hne, hd'⟩ := decode7_double_error s.config d hpq
  exact ⟨d', hne, exec_decode_oneLane hf hm hd'⟩

/-- With one lane, decoding the same block again changes nothing (R107). -/
theorem exec_decode_again {s t : State} {r : Block} (hm : s.multiLane = false) (h : exec (.decode r) s = .next t) :
    exec (.decode r) t = .next t := by
  obtain ⟨hf, -, d, hd, rfl⟩ := exec_decode_next h
  rw [putResult_oneLane hm]
  exact exec_decode_oneLane hf hm hd

/-- Settles O22: DECODE by what its block decodes to. -/
theorem decodeTransaction : Obligations.DecodeTransaction := by
  refine ⟨fun r => (decode_eq_decode_iff false true r).2 ⟨rfl, rfl⟩, fun s r hf hm => ⟨?_, exec_decode r s, ?_⟩,
    fun s f r hf => exec_decode_faulted r hf, fun s d hf hm => ⟨?_, fun p => ?_⟩,
    fun s hf hm => exec_decode_oneLane hf hm (decode7_0x51 s.config), fun s t r hm h _ => exec_decode_again hm h⟩
  · obtain ⟨d, hd⟩ := decode7_total s.config r
    exact ⟨d, hd, exec_decode_oneLane hf hm hd⟩
  · exact fun c f he => decodeStep_of_error hf (canAccept_oneLane hm) he
  · exact exec_decode_oneLane hf hm (decode7_codeword s.config d)
  · exact exec_decode_oneLane hf hm (decode7_single_error s.config d p)

/-! ### IDLE -/

/-- IDLE in an unfaulted block clears `out_valid` and writes nothing else, whatever LANES is (R108). -/
theorem exec_idle {s : State} (hf : s.fault = none) : exec .idle s = .next { s with outValid := false } := by
  simp [exec, execIdle, hf, idleOutputs]

theorem exec_idle_faulted {s : State} {f : FaultCode} (hf : s.fault = some f) :
    exec .idle s = .fault (.blockFaulted f) := by
  simp [exec, execIdle, hf]

/-- Settles O24: IDLE after nothing, after a RESET and after a DECODE of `0x55`. -/
theorem idleTransaction : Obligations.IdleTransaction := by
  refine ⟨fun r => (decode_eq_idle_iff false false r).2 ⟨rfl, rfl⟩, fun v r h => ?_,
    fun s hf => ⟨⟨_, exec_idle hf, rfl, rfl⟩, fun _ => exec_idle hf⟩, fun s t h => ?_,
    fun s f hf => exec_idle_faulted hf, fun s hf hm hres => ?_, fun s hf hm => ?_⟩
  · obtain ⟨hrst, -⟩ := (decode_eq_idle_iff true v r).1 h
    cases hrst
  · rw [exec_reset_next h]
    exact ⟨_, exec_idle (clearInterface_fault s), clearInterface_outData s⟩
  · exact ⟨_, _, exec_decode_of_ok hf (canAccept_of_results_nil hres) (decode7_0x55 s.config),
      exec_idle (by rw [putResult_fault, hf]), by simp [hm, hres], rfl⟩
  · exact ⟨_, exec_decode_oneLane hf hm (decode7_0x55 s.config), exec_idle hf⟩

/-- A READ of an output that is not valid appends nothing (R141): it raises the fault of an unwritten output, or pops. -/
theorem hostRead_of_invalid {s : State} (hf : s.fault = none) (hv : s.outValid = false) :
    ∃ u, hostRead s = .next u ∧ u.hostOut = s.hostOut := by
  cases hd : s.outData with
  | none => exact ⟨_, hostRead_unwritten hf hd, rfl⟩
  | some d => exact ⟨_, hostRead_written hf hd, by simp [hv]⟩

/-- Settles O25: the READ after an IDLE finds an output that is not valid. -/
theorem idleKeepsTheResultQueue : Obligations.IdleKeepsTheResultQueue :=
  fun _ _ => ⟨fun hf => ⟨exec_idle hf, hostRead_of_invalid hf rfl⟩, fun _ hf => exec_idle_faulted hf⟩

end Sys2Proof.Machine
end

section
/-!
What a host's line does to the outputs (spec/42_stream.md R137, R141): a READ by the output it finds, with one lane and with a
result queue, and the DECODE into the queue. And where the line of a step comes from (R134, R142).
-/

namespace Sys2Proof.Machine

/-! ### READ with one lane -/

theorem collect_valid {s : State} (hv : s.outValid = true) (d : Nibble) :
    collect d s = { s with hostOut := s.hostOut ++ unpackBits d } := by
  simp [collect, hv]

theorem collect_invalid {s : State} (hv : s.outValid = false) (d : Nibble) : collect d s = s := by
  simp [collect, hv]

/-- With one lane a READ of a written output collects it, and that is all (R141). -/
theorem hostRead_oneLane {s : State} {d : Nibble} (hf : s.fault = none) (hm : s.multiLane = false)
    (hd : s.outData = some d) : hostRead s = .next (collect d s) := by
  have hm' : (collect d s).multiLane = false := (multiLane_congr (collect_config d s)).trans hm
  rw [hostRead_written hf hd, popResult_oneLane hm']

theorem hostRead_oneLane_valid {s : State} {d : Nibble} (hf : s.fault = none) (hm : s.multiLane = false)
    (hd : s.outData = some d) (hv : s.outValid = true) :
    hostRead s = .next { s with hostOut := s.hostOut ++ unpackBits d } := by
  rw [hostRead_oneLane hf hm hd, collect_valid hv]

theorem hostRead_oneLane_invalid {s : State} {d : Nibble} (hf : s.fault = none) (hm : s.multiLane = false)
    (hd : s.outData = some d) (hv : s.outValid = false) : hostRead s = .next s := by
  rw [hostRead_oneLane hf hm hd, collect_invalid hv]

/-- Settles O32: a READ by the output it finds; after DECODE `0x55` that is a valid `0x5`, after the IDLE it is not valid. -/
theorem readAction : Obligations.ReadAction := by
  refine ⟨fun s hf hd => hostRead_unwritten hf hd, fun s d hf hm hd hv => hostRead_oneLane_valid hf hm hd hv,
    fun s d hf hm hd hv => hostRead_oneLane_invalid hf hm hd hv, fun s hf hm => ?_⟩
  have hread := hostRead_oneLane_valid (s := { s with outData := some 0x5#4, outValid := true }) hf hm rfl rfl
  exact ⟨_, _, exec_decode_oneLane hf hm (decode7_0x55 s.config), hread, exec_idle hf,
    hostRead_oneLane_invalid hf hm rfl rfl⟩

/-! ### DECODE and READ with a result queue -/

theorem canAccept_multiLane {s : State} (hm : s.multiLane = true) :
    s.canAccept = decide (s.results.length < s.config.lanes) := by
  simp [State.canAccept, hm]

theorem head?_append_singleton (ds : List Nibble) (d : Nibble) : (ds ++ [d]).head? = some (ds.headD d) := by
  rw [List.head?_append, List.head?_singleton, Option.or_some, List.headD_eq_head?_getD]

/-- A result goes to the end of the queue, and the outputs show the queue's head. -/
theorem putResult_multiLane {s : State} (hm : s.multiLane = true) (d : Nibble) :
    putResult d s =
      { s with results := s.results ++ [d], outData := some (s.results.headD d), outValid := true } := by
  rw [putResult, if_pos hm, head?_append_singleton]

/-- Settles O23: the queue has a place for the result, or it is full. -/
theorem decodeIntoTheResultQueue : Obligations.DecodeIntoTheResultQueue := by
  refine fun s r hf hm => ⟨fun hlen => ?_, fun hlen => ?_⟩
  · obtain ⟨d, hd⟩ := decode7_total s.config r
    have ha : s.canAccept = true := (canAccept_multiLane hm).trans (decide_eq_true hlen)
    exact ⟨d, hd, by rw [exec_decode_of_ok hf ha hd, putResult_multiLane hm]⟩
  · have ha : s.canAccept = false := (canAccept_multiLane hm).trans (decide_eq_false (Nat.not_lt.2 hlen))
    exact decodeStep_full hf ha

/-- Popping a queue whose head the outputs show: they show the next result, or the last one, which is then not valid. -/
theorem popResult_cons {s : State} {d : Nibble} {rest : List Nibble} (hm : s.multiLane = true)
    (hd : s.outData = some d) (hres : s.results = d :: rest) :
    popResult s =
      { s with results := rest, outData := some (rest.headD d), outValid := s.outValid && !rest.isEmpty } := by
  rw [popResult, if_pos hm, hres, hd, List.tail_cons, Option.or_some, List.headD_eq_head?_getD]

/-- A READ of a valid head of the queue collects it and pops it (R137, R141). -/
theorem hostRead_valid_cons {s : State} {d : Nibble} {rest : List Nibble} (hf : s.fault = none)
    (hm : s.multiLane = true) (hd : s.outData = some d) (hv : s.outValid = true) (hres : s.results = d :: rest) :
    hostRead s = .next { s with
      hostOut := s.hostOut ++ unpackBits d, results := rest, outData := some (rest.headD d),
      outValid := !rest.isEmpty } := by
  have hpop := popResult_cons (s := { s with hostOut := s.hostOut ++ unpackBits d }) hm hd hres
  rw [hostRead_written hf hd, collect_valid hv, hpop, hv, Bool.true_and]

/-- There is nothing to pop from an empty queue. -/
theorem popResult_empty {s : State} (hres : s.results = []) (hv : s.outValid = false) : popResult s = s := by
  cases hm : s.multiLane with
  | false => exact popResult_oneLane hm
  | true =>
    obtain ⟨⟩ := s
    obtain rfl : _ = [] := hres
    obtain rfl : _ = false := hv
    exact if_pos hm

/-- Settles O33: the head is collected when it is valid, and popped in either case. -/
theorem readPopsTheResultQueue : Obligations.ReadPopsTheResultQueue := by
  refine fun s d hf hm hd => ⟨fun rest hres hv => hostRead_valid_cons hf hm hd hv hres, fun rest hres hv => ?_,
    fun hres hv => ?_⟩
  · rw [hostRead_written hf hd, collect_invalid hv, popResult_cons hm hd hres, hv, Bool.false_and]
  · rw [hostRead_written hf hd, collect_invalid hv, popResult_empty hres hv]

/-! ### The line of a step -/

/-- Settles O42: the framer's READ, else its DECODE of the next block. -/
theorem framerStep : Obligations.FramerStep :=
  ⟨fun _ hdue => step_of_fetch (fetch_readDue hdue),
    fun _ hdue hlen => (step_of_fetch (fetch_block hdue hlen)).trans (runLine_decode _ _)⟩

/-- With the framer at rest, a step is the first line of the program, executed. -/
theorem step_cons {s : State} {l : Line} {rest : List Line} (hdue : s.readDue = false) (hlen : s.hostIn.length < 7)
    (hs : s.script = l :: rest) : step s = runLine l { s with script := rest } :=
  step_of_fetch (fetch_cons hdue hlen hs)

theorem decode_encode (i : Instr) : decode (encode i) = i := by
  obtain ⟨hround, -⟩ := decodeEncodeAgree
  exact hround i (by cases i <;> rfl)

theorem runLine_encode (i : Instr) (s : State) : runLine (.word (encode i)) s = exec i s := by
  rw [runLine, decode_encode]

/-- The instruction of a number is that of its low nine bits. -/
theorem decodeTableWord_eq_some {nbits w : Nat} {i : Instr} (h : decodeTableWord nbits w = some i) :
    decode (BitVec.ofNat 9 w) = i := by
  unfold decodeTableWord decodeNumber at h
  split at h
  · next hi =>
    split at hi
    · exact (Except.ok.inj hi).trans (Option.some.inj h)
    · nomatch hi
  · nomatch h

/-- Settles O49: the word is the host's next line, first in the program as it stands or as withFetchWord leaves it. -/
theorem stepRunsTheDecodedWord : Obligations.StepRunsTheDecodedWord := by
  refine ⟨fun s w rest hdue hlen hs => step_cons hdue hlen hs, fun s i rest hdue hlen hs => ?_, fun s nbits w i hi => ?_⟩
  · exact (step_cons hdue hlen hs).trans (runLine_encode i _)
  · rw [State.withFetchWord, step_cons rfl (by simp) (driveWord_script _ s), runLine, decodeTableWord_eq_some hi]
    rfl

/-- Settles O50: a host action as the first line of the program, or no line at all. -/
theorem stepRunsHostLines : Obligations.StepRunsHostLines := by
  refine fun s hdue hlen => ⟨fun rest hs => step_cons hdue hlen hs, fun xs rest hs => step_cons hdue hlen hs, fun hs => ?_⟩
  have hnone : fetch s = none := by rw [fetch_script hdue hlen, hs]; rfl
  exact ⟨step_of_fetch_none hnone, by simp [State.runOver, hnone]⟩

end Sys2Proof.Machine
end

section
/-!
DecodeStream on every input (spec/42_stream.md R130 to R133): an invalid symbol, a binary stream under a block's own constants,
the length of the output, and the partial tail.
-/

namespace Sys2Proof.Machine

/-! ### An invalid symbol -/

/-- The first element that is not 0 or 1 is at its lowest index (R133). -/
theorem firstInvalid_eq_some {xs : List Symbol} {i : Nat} (hi : i < xs.length) (hx : 1 < xs.getD i 0)
    (hbefore : ∀ j < i, xs.getD j 0 ≤ 1) : firstInvalid xs = some i := by
  have hnot (x : Symbol) : (!isBit x) = true ↔ ¬ x ≤ 1 := by rw [← isBit_iff, Bool.not_eq_true', Bool.not_eq_true]
  refine List.findIdx?_eq_some_iff_getElem.2 ⟨hi, ?_, fun j hj => ?_⟩
  · rw [List.getD_eq_getElem _ _ hi] at hx
    exact (hnot _).2 (Nat.not_le.2 hx)
  · have hle := hbefore j hj
    rw [List.getD_eq_getElem _ _ (hj.trans hi)] at hle
    exact fun hj' => (hnot _).1 hj' hle

theorem validate_of_firstInvalid {xs : List Symbol} {i : Nat} (h : firstInvalid xs = some i) :
    validate xs = .error (.invalidSymbol i) := by
  rw [validate, h]

theorem decodeStream_of_invalid {xs : List Symbol} {f : FaultCode} (h : validate xs = .error f) (c : CodeDef) :
    decodeStream c xs = .error f := by
  rw [decodeStream, h]
  rfl

theorem encodeStream_of_invalid {xs : List Symbol} {f : FaultCode} (h : validate xs = .error f) (g : GenMatrix) :
    encodeStream g xs = .error f := by
  rw [encodeStream, h]
  rfl

theorem expandStream_of_invalid {xs : List Symbol} {f : FaultCode} (h : validate xs = .error f) :
    expandStream xs = .error f := by
  rw [expandStream, h]

/-- A stream call on an invalid input records the fault and issues nothing (R133, 60_exceptions R152). -/
theorem hostStream_of_invalid {xs : List Symbol} {f : FaultCode} {s : State} (hf : s.fault = none)
    (h : validate xs = .error f) : hostStream xs s = .next { s with fault := some f } := by
  rw [hostStream, hf, h, ← raise_of_unfaulted hf]

/-- Settles O34: all four validate the whole input first. -/
theorem firstInvalidSymbolReported : Obligations.FirstInvalidSymbolReported := by
  intro xs i hi hx hbefore
  have hv := validate_of_firstInvalid (firstInvalid_eq_some hi hx hbefore)
  exact ⟨fun c => ⟨decodeStream_of_invalid hv c, encodeStream_of_invalid hv c.g⟩, expandStream_of_invalid hv,
    fun s hf => hostStream_of_invalid hf hv⟩

/-! ### The length of the output -/

/-- With its own constants a block decodes every list of blocks (R103). -/
theorem mapM_decode7_total (c : Config) (rs : List Block) : ∃ ds, rs.mapM (decode7 (configCode c)) = .ok ds := by
  induction rs with
  | nil => exact ⟨[], rfl⟩
  | cons r rs ih =>
    obtain ⟨d, hd⟩ := decode7_total c r
    obtain ⟨ds, hds⟩ := ih
    exact ⟨d :: ds, by rw [List.mapM_cons, hd, hds]; rfl⟩

theorem decodeBlocks_total (c : Config) (bits : List Bit) : ∃ ds, decodeBlocks (configCode c) bits = .ok ds := by
  rw [decodeBlocks_eq_mapM]
  exact mapM_decode7_total c _

/-- Decoded blocks are as many nibbles. -/
theorem length_of_mapM_decode7 {c : CodeDef} {rs : List Block} {ds : List Nibble} (h : rs.mapM (decode7 c) = .ok ds) :
    ds.length = rs.length := by
  induction rs generalizing ds with
  | nil =>
    obtain rfl : [] = ds := Except.ok.inj h
    rfl
  | cons r rs ih =>
    rw [List.mapM_cons] at h
    obtain ⟨d, -, hrest⟩ := exists_ok_of_bind_eq_ok h
    obtain ⟨ds', hds', hcons⟩ := exists_ok_of_bind_eq_ok hrest
    obtain rfl : d :: ds' = ds := Except.ok.inj hcons
    rw [List.length_cons, List.length_cons, ih hds']

theorem length_of_decodeBlocks {c : CodeDef} {bits : List Bit} {ds : List Nibble} (h : decodeBlocks c bits = .ok ds) :
    ds.length = bits.length / 7 := by
  rw [decodeBlocks_eq_mapM] at h
  rw [length_of_mapM_decode7 h, List.length_map, List.length_range]

/-- Settles O35: every block of a binary stream decodes, each to four bits. -/
theorem decodeStreamLength : Obligations.DecodeStreamLength := by
  refine ⟨fun c xs hbin => ?_, fun c xs ys h => ?_⟩
  · obtain ⟨ds, hds⟩ := decodeBlocks_total c (xs.map symbolBit)
    exact ⟨_, decodeStream_of_decodeBlocks (validate_ok hbin) hds⟩
  · obtain ⟨ds, hds, rfl⟩ := decodeStream_eq_ok h
    have hlen : ds.length = xs.length / 7 := by rw [length_of_decodeBlocks hds, List.length_map]
    simp [hlen, Nat.mul_comm]

/-! ### The partial tail -/

/-- Fewer than seven bits after whole blocks make no block (R131). -/
theorem decodeBlocks_append_tail (c : CodeDef) {bits tail : List Bit} (h : bits.length % 7 = 0) (ht : tail.length < 7) :
    decodeBlocks c (bits ++ tail) = decodeBlocks c bits := by
  have hwhole : 7 * ((bits ++ tail).length / 7) = bits.length := by rw [List.length_append]; omega
  rw [← decodeBlocks_take_whole, hwhole, List.take_left]

/-- A binary tail makes no input invalid, and moves no invalid symbol. -/
theorem firstInvalid_append_binary (xs : List Symbol) {tail : List Symbol} (h : ∀ x ∈ tail, x ≤ 1) :
    firstInvalid (xs ++ tail) = firstInvalid xs := by
  rw [firstInvalid, List.findIdx?_append, ← firstInvalid, ← firstInvalid, (firstInvalid_eq_none tail).2 h,
    Option.map_none, Option.or_none]

/-- Settles O36: the tail is dropped from a valid input, and an invalid one faults with it as without. -/
theorem partialTailDropped : Obligations.PartialTailDropped := by
  intro c xs tail hlen htail hbin
  have happend := firstInvalid_append_binary xs hbin
  cases hi : firstInvalid xs with
  | some i =>
    rw [decodeStream_of_invalid (validate_of_firstInvalid hi),
      decodeStream_of_invalid (validate_of_firstInvalid (happend.trans hi))]
  | none =>
    have hv := validate_ok ((firstInvalid_eq_none xs).1 hi)
    have hv' := validate_ok ((firstInvalid_eq_none _).1 (happend.trans hi))
    rw [List.map_append] at hv'
    have hblocks := decodeBlocks_append_tail c (bits := xs.map symbolBit) (tail := tail.map symbolBit)
      (by rwa [List.length_map]) (by rwa [List.length_map])
    rw [decodeStream, decodeStream, hv, hv']
    exact congrArg (· >>= fun ds => pure (ds.flatMap unpackBits)) hblocks

end Sys2Proof.Machine
end

section
/-!
Runs of a program to their end (spec/42_stream.md R134, R135, R137, R142): a stream call, with any number of lanes; blocks with
IDLE steps before each; and with a result queue, blocks issued before the first READ.
-/

namespace Sys2Proof.Machine

/-! ### The run of a stream call -/

/-- Settles O43: the framer reads the nibbles of the stream's blocks, whose bits are DecodeStream of it. -/
theorem framerComputesDecodeStream : Obligations.FramerComputesDecodeStream := by
  intro s xs hready hscript hbin
  obtain ⟨t, ds, hends, hds, hf, -, ho⟩ := endsIn_of_stream hready hscript (validate_ok hbin)
  exact ⟨t, _, hends, decodeStream_of_decodeBlocks (validate_ok hbin) hds, by rw [observation, ho, hf]⟩

/-- A stream call on an invalid input ends the run with its fault, and nothing read (R133). -/
theorem endsIn_of_invalid_stream {s : State} {xs : List Symbol} {f : FaultCode} (hs : s.ready = true)
    (hscript : s.script = [.stream xs]) (hv : validate xs = .error f) :
    EndsIn s { s with script := [], fault := some f } := by
  obtain ⟨⟨hf, -, hdue⟩, hin⟩ := ready_iff.1 hs
  have hfetch : fetch s = some (.stream xs, { s with script := [] }) := fetch_cons hdue (by simp [hin]) hscript
  have hstep : step s = .next { s with script := [], fault := some f } :=
    (step_of_fetch hfetch).trans (hostStream_of_invalid hf hv)
  exact endsIn_step (runOver_of_fetch hf hfetch) hstep (endsIn_self rfl)

/-- Where the run of a stream call ends, by what its input validates to; the number of lanes is no part of it. -/
theorem observation_of_stream {s t : State} {xs : List Symbol} (hs : s.ready = true) (hscript : s.script = [.stream xs])
    (ht : EndsIn s t) :
    (∃ f, validate xs = .error f ∧ observation t = (s.hostOut, some f)) ∨
    (∃ bits ds, validate xs = .ok bits ∧ decodeBlocks s.code bits = .ok ds ∧
      observation t = (s.hostOut ++ ds.flatMap unpackBits, none)) := by
  cases hv : validate xs with
  | error f =>
    refine .inl ⟨f, rfl, ?_⟩
    rw [endsIn_unique ht (endsIn_of_invalid_stream hs hscript hv)]
    rfl
  | ok bits =>
    obtain ⟨u, ds, hends, hds, hf, -, ho⟩ := endsIn_of_stream hs hscript hv
    exact .inr ⟨bits, ds, rfl, hds, by rw [endsIn_unique ht hends, observation, ho, hf]⟩

theorem withLanes_ready (n : Nat) (s : State) : (s.withLanes n).ready = s.ready := rfl

theorem withLanes_code (n : Nat) (s : State) : (s.withLanes n).code = s.code := rfl

/-- Settles O48: both runs end by what the input validates to, with the same constants. -/
theorem lanesGiveTheSameSequences : Obligations.LanesGiveTheSameSequences := by
  intro s t u n xs hready hscript ht hu
  have hready' (k : Nat) : (s.withLanes k).ready = true := (withLanes_ready k s).trans hready
  obtain ⟨f, hv, hobs⟩ | ⟨bits, ds, hv, hds, hobs⟩ := observation_of_stream (hready' 1) hscript ht <;>
    obtain ⟨f', hv', hobs'⟩ | ⟨bits', ds', hv', hds', hobs'⟩ := observation_of_stream (hready' n) hscript hu
  · obtain rfl : f = f' := Except.error.inj (hv.symm.trans hv')
    exact hobs.trans hobs'.symm
  · nomatch hv.symm.trans hv'
  · nomatch hv.symm.trans hv'
  · obtain rfl : bits = bits' := Except.ok.inj (hv.symm.trans hv')
    obtain rfl : ds = ds' := by
      rw [withLanes_code] at hds hds'
      exact Except.ok.inj (hds.symm.trans hds')
    exact hobs.trans hobs'.symm

/-! ### The end of a program -/

/-- The next line of a program, executed: one step of its run. -/
theorem runFor_line {s t : State} {l : Line} {rest : List Line} (hf : s.fault = none) (hdue : s.readDue = false)
    (hlen : s.hostIn.length < 7) (hscript : s.script = l :: rest)
    (hl : runLine l { s with script := rest } = .next t) : runFor 1 s = t := by
  have hfetch := fetch_cons hdue hlen hscript
  exact runFor_succ (runOver_of_fetch hf hfetch) ((step_of_fetch hfetch).trans hl) 0

/-- A host whose next lines are as they were has read nothing. -/
theorem HasRead.of_script {s : State} {ls : List Line} (h : s.script = ls) : HasRead { s with script := ls } s [] :=
  ⟨rfl, rfl, h, by simp⟩

/-- A run that comes to an idle framer and the end of the program has ended, with what it has read. -/
theorem endsIn_of_hasRead {n : Nat} {s t : State} {ds : List Nibble} (hrun : runFor n s = t) (ht : FramerFree t)
    (hlen : t.hostIn.length < 7) (hread : HasRead { s with script := [] } t ds) :
    EndsIn s t ∧ observation t = (s.hostOut ++ ds.flatMap unpackBits, none) := by
  obtain ⟨-, -, hend, ho⟩ := hread
  have hends : EndsIn t t := endsIn_self (runOver_of_script_nil ht hlen hend)
  obtain ⟨hf, -, -⟩ := ht
  exact ⟨endsIn_of_runFor hrun hends, by rw [observation, ho, hf]⟩

/-! ### IDLE steps between blocks -/

/-- IDLE lines change nothing the next DECODE and READ use (R108, R134). -/
theorem script_idles {s : State} {k : Nat} {rest : List Line} (hs : FramerFree s) (hlen : s.hostIn.length < 7)
    (hscript : s.script = List.replicate k (.word (encode .idle)) ++ rest) :
    ∃ t, runFor k s = t ∧ FramerFree t ∧ t.hostIn = s.hostIn ∧ HasRead { s with script := rest } t [] := by
  induction k generalizing s with
  | zero => exact ⟨s, rfl, hs, rfl, HasRead.of_script hscript⟩
  | succ k ih =>
    obtain ⟨hf, hres, hdue⟩ := hs
    have hidle : runFor 1 s =
        { s with script := List.replicate k (.word (encode .idle)) ++ rest, outValid := false } :=
      runFor_line hf hdue hlen hscript ((runLine_encode .idle _).trans (exec_idle hf))
    obtain ⟨t, hrun, ht, hin, hread⟩ := ih (s := { s with
      script := List.replicate k (.word (encode .idle)) ++ rest, outValid := false }) ⟨hf, hres, hdue⟩ hlen rfl
    exact ⟨t, by rw [Nat.add_comm, runFor_add, hidle, hrun], ht, hin, hread⟩

theorem framedLines_cons (k : Nat) (r : Block) (blocks : List (Nat × Block)) :
    framedLines ((k, r) :: blocks) =
      List.replicate k (.word (encode .idle)) ++ (blockLines r ++ framedLines blocks) :=
  List.append_assoc _ _ _

/-- A program of blocks with IDLE lines before each reads their nibbles in order. -/
theorem framed_reads_blocks {s : State} {blocks : List (Nat × Block)} (hs : FramerFree s) (hlen : s.hostIn.length < 7)
    (hscript : s.script = framedLines blocks) :
    ∃ n t ds, (blocks.mapM fun b => decode7 s.code b.2) = .ok ds ∧ runFor n s = t ∧ FramerFree t ∧
      t.hostIn.length < 7 ∧ HasRead { s with script := [] } t ds := by
  induction blocks generalizing s with
  | nil => exact ⟨0, s, [], rfl, rfl, hs, hlen, HasRead.of_script hscript⟩
  | cons b blocks ih =>
    obtain ⟨k, r⟩ := b
    rw [framedLines_cons] at hscript
    obtain ⟨t, hrun, ht, hin, hread⟩ := script_idles hs hlen hscript
    obtain ⟨d, u, hd, hrun', hu, hin', hread'⟩ := script_turn ht (by rwa [hin]) hread.script_eq
    have hread₂ := (hread.withScript (framedLines blocks)).trans hread'
    obtain ⟨n, v, ds, hds, hrun'', hv, hlen'', hread''⟩ := ih hu (by rwa [hin', hin]) hread₂.script_eq
    have hcode : t.code = s.code := code_congr hread.config_eq
    have hcode' : u.code = s.code := code_congr hread₂.config_eq
    refine ⟨k + (2 + n), v, d :: ds, ?_, by rw [runFor_add, hrun, runFor_add, hrun', hrun''], hv, hlen'',
      (hread₂.withScript []).trans hread''⟩
    rw [hcode] at hd
    rw [hcode'] at hds
    rw [List.mapM_cons, hd, hds]
    rfl

/-- Settles O45: the program's run comes to its end with the nibbles of its blocks read. -/
theorem idleStepsBetweenBlocksChangeNothing : Obligations.IdleStepsBetweenBlocksChangeNothing := by
  intro s blocks hready hscript
  obtain ⟨hfree, hin⟩ := ready_iff.1 hready
  obtain ⟨n, t, ds, hds, hrun, ht, hlen, hread⟩ := framed_reads_blocks hfree (by simp [hin]) hscript
  obtain ⟨hends, hobs⟩ := endsIn_of_hasRead hrun ht hlen hread
  exact ⟨t, ds, hends, hds, hobs⟩

/-! ### Results outstanding in the queue -/

/-- The results `ds` are unread, the outputs show the first of them, and the program's next line may be issued (R137). -/
def Unread (s : State) (ds : List Nibble) : Prop :=
  s.fault = none ∧ s.readDue = false ∧ s.hostIn.length < 7 ∧ s.results = ds ∧
    (ds = [] ∨ s.outValid = true ∧ s.outData = ds.head?)

theorem unread_nil {s : State} : Unread s [] ↔ FramerFree s ∧ s.hostIn.length < 7 := by
  refine ⟨fun ⟨hf, hdue, hlen, hres, _⟩ => ⟨⟨hf, hres, hdue⟩, hlen⟩, ?_⟩
  rintro ⟨⟨hf, hres, hdue⟩, hlen⟩
  exact ⟨hf, hdue, hlen, hres, .inl rfl⟩

/-- A delivered result is the last of the unread ones. -/
theorem unread_putResult {s : State} {ds : List Nibble} (hm : s.multiLane = true) (hs : Unread s ds) (d : Nibble) :
    Unread (putResult d s) (ds ++ [d]) := by
  obtain ⟨hf, hdue, hlen, hres, -⟩ := hs
  rw [putResult_multiLane hm]
  exact ⟨hf, hdue, hlen, congrArg (· ++ [d]) hres, .inr ⟨rfl, by rw [head?_append_singleton, ← hres]⟩⟩

/-- A READ reads the oldest of the unread results. -/
theorem hostRead_of_unread {s : State} {d : Nibble} {ds : List Nibble} (hm : s.multiLane = true)
    (hs : Unread s (d :: ds)) : ∃ t, hostRead s = .next t ∧ Unread t ds ∧ HasRead s t [d] := by
  obtain ⟨hf, hdue, hlen, hres, hnil | ⟨hv, hd⟩⟩ := hs
  · nomatch hnil
  refine ⟨_, hostRead_valid_cons hf hm hd hv hres, ⟨hf, hdue, hlen, rfl, ?_⟩, rfl, rfl, rfl, by simp⟩
  cases ds with
  | nil => exact .inl rfl
  | cons d' ds => exact .inr ⟨rfl, rfl⟩

/-- A DECODE line with a place for its result: one more result is unread, and nothing is read. -/
theorem script_issue {s : State} {ds : List Nibble} {r : Block} {rest : List Line} (hm : s.multiLane = true)
    (hs : Unread s ds) (hlanes : ds.length < s.config.lanes)
    (hscript : s.script = .word (encode (.decode r)) :: rest) :
    ∃ d t, decode7 s.code r = .ok d ∧ runFor 1 s = t ∧ Unread t (ds ++ [d]) ∧ HasRead { s with script := rest } t [] := by
  obtain ⟨d, hd⟩ := decode7_total s.config r
  have hunread := unread_putResult (s := { s with script := rest }) hm hs d
  obtain ⟨hf, hdue, hlen, hres, -⟩ := hs
  have ha : s.canAccept = true := by rw [canAccept_multiLane hm, hres, decide_eq_true hlanes]
  have hdecode : exec (.decode r) { s with script := rest } = .next (putResult d { s with script := rest }) :=
    exec_decode_of_ok hf ha hd
  have hline := (runLine_encode (.decode r) _).trans hdecode
  exact ⟨d, _, hd, runFor_line hf hdue hlen hscript hline, hunread, by simp [HasRead]⟩

/-- A READ line reads the oldest of the unread results. -/
theorem script_collect {s : State} {d : Nibble} {ds : List Nibble} {rest : List Line} (hm : s.multiLane = true)
    (hs : Unread s (d :: ds)) (hscript : s.script = .read :: rest) :
    ∃ t, runFor 1 s = t ∧ Unread t ds ∧ HasRead { s with script := rest } t [d] := by
  obtain ⟨t, hline, ht, hread⟩ := hostRead_of_unread (s := { s with script := rest }) hm hs
  obtain ⟨hf, hdue, hlen, -, -⟩ := hs
  exact ⟨t, runFor_line hf hdue hlen hscript hline, ht, hread⟩

/-- DECODE lines with places for their results leave them all unread, in issue order. -/
theorem script_issues {s : State} {ds : List Nibble} {rs : List Block} {rest : List Line} (hm : s.multiLane = true)
    (hs : Unread s ds) (hlanes : ds.length + rs.length ≤ s.config.lanes)
    (hscript : s.script = rs.map (fun r => .word (encode (.decode r))) ++ rest) :
    ∃ n t es, rs.mapM (decode7 s.code) = .ok es ∧ runFor n s = t ∧ Unread t (ds ++ es) ∧
      HasRead { s with script := rest } t [] := by
  induction rs generalizing s ds with
  | nil => exact ⟨0, s, [], rfl, rfl, by rwa [List.append_nil], HasRead.of_script hscript⟩
  | cons r rs ih =>
    rw [List.length_cons] at hlanes
    obtain ⟨d, t, hd, hrun, ht, hread⟩ := script_issue hm hs (by omega) hscript
    have hconfig : t.config = s.config := hread.config_eq
    obtain ⟨n, u, es, hes, hrun', hu, hread'⟩ := ih ((multiLane_congr hconfig).trans hm) ht
      (by rw [hconfig, List.length_append, List.length_singleton]; omega) hread.script_eq
    refine ⟨1 + n, u, d :: es, ?_, by rw [runFor_add, hrun, hrun'], by rwa [List.append_cons],
      (hread.withScript rest).trans hread'⟩
    rw [code_congr hconfig] at hes
    rw [List.mapM_cons, hd, hes]
    rfl

/-- As many READ lines as results are unread read them all, in order. -/
theorem script_collects {s : State} {ds : List Nibble} (hm : s.multiLane = true) (hs : Unread s ds)
    (hscript : s.script = List.replicate ds.length .read) :
    ∃ n t, runFor n s = t ∧ Unread t [] ∧ HasRead { s with script := [] } t ds := by
  induction ds generalizing s with
  | nil => exact ⟨0, s, rfl, hs, HasRead.of_script hscript⟩
  | cons d ds ih =>
    obtain ⟨t, hrun, ht, hread⟩ := script_collect hm hs hscript
    obtain ⟨n, u, hrun', hu, hread'⟩ := ih ((multiLane_congr hread.config_eq).trans hm) ht hread.script_eq
    exact ⟨1 + n, u, by rw [runFor_add, hrun, hrun'], hu, (hread.withScript []).trans hread'⟩

/-- With a result queue, blocks issued before the first READ are read in issue order (R137). -/
theorem endsIn_of_queued_blocks {s : State} {rs : List Block} (hm : s.multiLane = true) (hs : s.ready = true)
    (hlanes : rs.length ≤ s.config.lanes)
    (hscript : s.script = rs.map (fun r => .word (encode (.decode r))) ++ List.replicate rs.length .read) :
    ∃ t ds, EndsIn s t ∧ rs.mapM (decode7 s.code) = .ok ds ∧
      observation t = (s.hostOut ++ ds.flatMap unpackBits, none) := by
  obtain ⟨hfree, hin⟩ := ready_iff.1 hs
  obtain ⟨n, t, ds, hds, hrun, ht, hread⟩ :=
    script_issues hm (unread_nil.2 ⟨hfree, by simp [hin]⟩) (by simpa using hlanes) hscript
  have hscript' : t.script = List.replicate ds.length .read := by rw [hread.script_eq, length_of_mapM_decode7 hds]
  obtain ⟨m, u, hrun', hu, hread'⟩ := script_collects ((multiLane_congr hread.config_eq).trans hm) ht hscript'
  obtain ⟨hfree', hlen⟩ := unread_nil.1 hu
  have hrun₂ : runFor (n + m) s = u := by rw [runFor_add, hrun, hrun']
  obtain ⟨hends, hobs⟩ := endsIn_of_hasRead hrun₂ hfree' hlen ((hread.withScript []).trans hread')
  exact ⟨u, ds, hends, hds, hobs⟩

theorem lanes_le_one {s : State} (hm : s.multiLane = false) : s.config.lanes ≤ 1 :=
  Nat.not_lt.1 (of_decide_eq_false hm)

/-- Settles O47: with one lane the program is at most one block's DECODE and READ; with more, the queue holds the results. -/
theorem resultsReadInIssueOrder : Obligations.ResultsReadInIssueOrder := by
  intro s rs hready hlanes hscript
  cases hm : s.multiLane with
  | false =>
    have hone : rs.length ≤ 1 := hlanes.trans (lanes_le_one hm)
    refine endsIn_of_blockLines hready ?_
    match rs, hone with
    | [], _ => exact hscript
    | [_], _ => exact hscript
  | true =>
    rw [List.map_const'] at hscript
    exact endsIn_of_queued_blocks hm hready hlanes hscript

end Sys2Proof.Machine
end

section
/-!
Faults (spec/60_exceptions.md R150, R157 to R159): while one is recorded no transaction but RESET has a step and the host
actions are refused, so that only a word with `rst = 1` takes a step; and raising one writes the record and nothing else.
-/

namespace Sys2Proof.Machine

/-! ### While a fault is recorded -/

theorem hostRead_faulted {s : State} {f : FaultCode} (hf : s.fault = some f) :
    hostRead s = .refused (.readWhileFaulted f) := by
  rw [hostRead, hf]

/-- The record is looked at before the symbols are (R159). -/
theorem hostStream_faulted {s : State} {f : FaultCode} (xs : List Symbol) (hf : s.fault = some f) :
    hostStream xs s = .refused (.streamWhileFaulted f) := by
  rw [hostStream, hf]

/-- Settles O29: the stop of each transaction and each host action, and the step of RESET. -/
theorem faultedBlockIsStopped : Obligations.FaultedBlockIsStopped :=
  fun s _ hf => ⟨fun r => exec_decode_faulted r hf, exec_idle_faulted hf, hostRead_faulted hf,
    fun xs => hostStream_faulted xs hf, clearInterface s, rfl, clearInterface_fault s⟩

/-! ### RESET alone takes a step -/

theorem decode_eq_reset_iff_wordRst (w : StepWord) : decode w = .reset ↔ wordRst w = true := by
  obtain ⟨rst, v, r, rfl⟩ := exists_stepWord w
  rw [decode_eq_reset_iff, wordRst_stepWord]

theorem exec_faulted {i : Instr} {s : State} {f : FaultCode} (hi : i ≠ .reset) (hf : s.fault = some f) :
    exec i s = .fault (.blockFaulted f) := by
  cases i with
  | reset => exact absurd rfl hi
  | decode r => exact exec_decode_faulted r hf
  | idle => exact exec_idle_faulted hf

/-- Settles O55: the word's `rst` bit says whether it is a RESET, the one transaction a recorded fault does not stop. -/
theorem priorityWithinAStep : Obligations.PriorityWithinAStep := by
  refine fun s f w hf => ⟨fun hrst => ?_, fun hrst => exec_faulted ?_ hf, fun xs _ _ => hostStream_faulted xs hf⟩
  · rw [(decode_eq_reset_iff_wordRst w).2 hrst]
    rfl
  · simp [decode_eq_reset_iff_wordRst, hrst]

/-- Everything a line that takes a step in a faulted state can be and do. -/
theorem runLine_faulted_next {l : Line} {s t : State} {f : FaultCode} (hf : s.fault = some f)
    (h : runLine l s = .next t) : ∃ w, l = .word w ∧ wordRst w = true ∧ t = clearInterface s := by
  cases l with
  | word w =>
    obtain ⟨hreset, ht⟩ | ⟨_, -, hn, -⟩ | ⟨-, hn, -⟩ := exec_next h
    · exact ⟨w, rfl, (decode_eq_reset_iff_wordRst w).1 hreset, ht⟩
    · simp [hf] at hn
    · simp [hf] at hn
  | read => cases (hostRead_faulted hf).symm.trans h
  | stream xs => cases (hostStream_faulted xs hf).symm.trans h

/-- Settles O30: the fetch keeps the record, and the line it answers then is a RESET. -/
theorem onlyResetLeavesAFault : Obligations.OnlyResetLeavesAFault := by
  intro s t f hf h
  obtain ⟨l, s', hfetch, hrun⟩ := step_next h
  obtain ⟨-, -, -, hf', -⟩ := fetch_frame hfetch
  obtain ⟨w, rfl, hrst, rfl⟩ := runLine_faulted_next (hf'.trans hf) hrun
  exact ⟨w, s', hfetch, hrst, rfl, clearInterface_fault s'⟩

/-! ### Raising a fault -/

/-- In an unfaulted state the fault raised is the one recorded, and the record is all that is written (R150). -/
theorem raise_eq_of_fault {s : State} {f g : FaultCode} (hs : s.fault = none) (h : (raise g s).fault = some f) :
    raise g s = { s with fault := some f } := by
  obtain rfl : g = f := by simpa [hs] using h
  exact raise_of_unfaulted hs

/-- Settles O31: each of the three either raises, or answers a state with the record as it was. -/
theorem raisingAFaultChangesNothingElse : Obligations.RaisingAFaultChangesNothingElse := by
  refine fun s t f hs ht => ⟨fun c r h => ?_, fun h => ?_, fun xs h => ?_⟩
  · obtain ⟨-, -, ⟨d, -, rfl⟩ | ⟨g, -, rfl⟩⟩ := decodeStep_next h
    · simp [hs] at ht
    · exact raise_eq_of_fault hs ht
  · obtain ⟨-, ⟨-, rfl⟩ | ⟨d, -, rfl⟩⟩ := hostRead_next h
    · exact raise_eq_of_fault hs ht
    · simp [hs] at ht
  · obtain ⟨-, ⟨g, -, rfl⟩ | ⟨bits, -, rfl⟩⟩ := hostStream_next h
    · exact raise_eq_of_fault hs ht
    · simp [hs] at ht

end Sys2Proof.Machine
end

section
/-!
Reset and what no step writes (spec/70_reset_and_hazards.md R180 to R182): RESET clears the interface state in every state and
discards the result in it; the parameters, and the constants with them, are those of the construction after any step.
-/

namespace Sys2Proof.Machine

/-! ### RESET -/

/-- RESET is enabled in every state, a faulted one too (R180). -/
theorem exec_reset (s : State) : exec .reset s = .next (clearInterface s) := rfl

/-- A second reset changes nothing (R181). -/
@[simp] theorem clearInterface_clearInterface (s : State) : clearInterface (clearInterface s) = clearInterface s := rfl

/-- A READ after a RESET finds no written output, whatever the RESET discarded (R181). -/
theorem hostRead_clearInterface (s : State) :
    hostRead (clearInterface s) = .next { clearInterface s with fault := some .unwrittenOutputRead } :=
  hostRead_unwritten (clearInterface_fault s) (clearInterface_outData s)

/-- Settles O21: each clause is a property of `clearInterface`; the DECODE before it takes a step because it has a place for
its result. -/
theorem resetTransaction : Obligations.ResetTransaction := by
  refine ⟨fun v r => by rw [decode_stepWord, if_pos rfl], exec_reset, fun s t h => ?_, fun s hf ha => ?_⟩
  · obtain rfl := exec_reset_next h
    exact ⟨by rw [exec_reset, clearInterface_clearInterface], code_congr (clearInterface_config s)⟩
  · obtain ⟨t, ht, -⟩ := exec_of_canAccept (.decode 0x55#7) hf ha
    exact ⟨t, clearInterface t, ht, exec_reset t, hostRead_clearInterface t⟩

/-! ### No line writes the parameters -/

theorem hostRead_config {s t : State} (h : hostRead s = .next t) : t.config = s.config := by
  obtain ⟨-, ⟨-, rfl⟩ | ⟨d, -, rfl⟩⟩ := hostRead_next h <;> simp

theorem hostStream_config {xs : List Symbol} {s t : State} (h : hostStream xs s = .next t) : t.config = s.config := by
  obtain ⟨-, ⟨f, -, rfl⟩ | ⟨bits, -, rfl⟩⟩ := hostStream_next h <;> simp

theorem runLine_config {l : Line} {s t : State} (h : runLine l s = .next t) : t.config = s.config := by
  cases l with
  | word w =>
    obtain ⟨hc, -⟩ := exec_frame h
    exact hc
  | read => exact hostRead_config h
  | stream xs => exact hostStream_config h

/-- Neither taking the next line nor executing it writes the parameters (R25, R182). -/
theorem step_config {s t : State} (h : step s = .next t) : t.config = s.config := by
  obtain ⟨l, s', hfetch, hrun⟩ := step_next h
  obtain ⟨hc, -⟩ := fetch_frame hfetch
  exact (runLine_config hrun).trans hc

/-- Settles O53: the constants depend on the parameters alone, and these are those before the step. -/
theorem constantsAreNeverWritten : Obligations.ConstantsAreNeverWritten := by
  intro s t h
  have hc : t.config = s.config := step_config h
  have hconstruct : construct (parityRows t.config.parity) = .ok t.code := construct_parityRows t.config.parity
  exact ⟨hc, code_congr hc, code_congr hc ▸ hconstruct⟩

end Sys2Proof.Machine
end

section
/-!
The code in Hamming space (spec/40_code_definition.md R89, spec/41_decode.md R110, R114): a block decodes to a nibble exactly
when it is at distance at most 1 from its codeword, which gives the minimum distance and the count of a nibble's blocks.
-/

namespace Sys2Proof.Machine

/-! ### Distances up to 2 as flips -/

theorem distance_comm (r r' : Block) : distance r r' = distance r' r := by
  simp only [distance, bne_comm]

theorem distance_eq_weight (r r' : Block) : distance r r' = distance 0#7 (r ^^^ r') := by
  rw [← distance_xor r, xor_cancel_left]

/-- A block at distance at most 1 is made by one flip, or none. -/
theorem distance_le_one_iff {r r' : Block} : distance r r' ≤ 1 ↔ ∃ pos, bitFlip r pos = r' := by
  have hweight : ∀ e : Block, distance 0#7 e ≤ 1 → ∃ pos, onehot7 pos = e := by decide
  refine ⟨fun h => ?_, ?_⟩
  · rw [distance_eq_weight] at h
    obtain ⟨pos, hpos⟩ := hweight _ h
    exact ⟨pos, by rw [bitFlip, hpos, xor_cancel_left]⟩
  · rintro ⟨pos, rfl⟩
    exact distance_bitFlip_le_one r pos

/-- Between two blocks at distance at most 2 lies one at distance at most 1 from both. -/
theorem exists_between_of_distance_le_two {r r' : Block} (h : distance r r' ≤ 2) :
    ∃ m, distance m r ≤ 1 ∧ distance m r' ≤ 1 := by
  have hweight : ∀ e : Block, distance 0#7 e ≤ 2 → ∃ pos, distance 0#7 (onehot7 pos ^^^ e) ≤ 1 := by decide
  rw [distance_eq_weight] at h
  obtain ⟨pos, hpos⟩ := hweight _ h
  refine ⟨bitFlip r pos, ?_, ?_⟩
  · rw [distance_comm]
    exact distance_bitFlip_le_one r pos
  · rwa [distance_eq_weight, bitFlip, BitVec.xor_comm r, BitVec.xor_assoc]

/-! ### Decoding is to the codeword at distance at most 1 -/

/-- Settles O16: a codeword has syndrome 0, and one flip of it the column of its position. -/
theorem singleErrorCorrected : Obligations.SingleErrorCorrected :=
  fun c d => ⟨decode7_codeword c d, decode7_single_error c d⟩

/-- A codeword with one flip, or none, decodes to its nibble. -/
theorem decode7_bitFlip_codeword (c : Config) (d : Nibble) (pos : PosCode) :
    decode7 (configCode c) (bitFlip (encode4 (configCode c).g d) pos) = .ok d := by
  have hcases : ∀ pos : PosCode, pos = posNone ∨ ∃ p : Fin 7, onehot7 pos = errorAt p := by decide
  obtain rfl | ⟨p, hp⟩ := hcases pos
  · rw [bitFlip_posNone]
    exact decode7_codeword c d
  · rw [bitFlip, hp]
    exact decode7_single_error c d p

/-- The blocks that decode to a nibble are those one flip, or none, makes of its codeword. -/
theorem decode7_eq_ok_iff_bitFlip {c : Config} {r : Block} {d : Nibble} :
    decode7 (configCode c) r = .ok d ↔ ∃ pos, bitFlip (encode4 (configCode c).g d) pos = r := by
  refine ⟨fun h => ?_, ?_⟩
  · obtain ⟨pos, hpos⟩ := exists_encode4_eq_bitFlip h
    exact ⟨pos, by rw [hpos, bitFlip, bitFlip, xor_cancel_right]⟩
  · rintro ⟨pos, rfl⟩
    exact decode7_bitFlip_codeword c d pos

/-- The blocks that decode to a nibble are the ball of radius 1 around its codeword (R114). -/
theorem decode7_eq_ok_iff {c : Config} {r : Block} {d : Nibble} :
    decode7 (configCode c) r = .ok d ↔ distance r (encode4 (configCode c).g d) ≤ 1 := by
  rw [decode7_eq_ok_iff_bitFlip, distance_comm, distance_le_one_iff]

/-- Settles O12: a block between two codewords less than 3 apart would decode to both nibbles. -/
theorem codewordsAndDistance : Obligations.CodewordsAndDistance := by
  refine fun c => ⟨fun r => ?_, fun d => extract_encode4 c.parity d, fun d d' hne => ?_, 0x0#4, 0x1#4, ?_⟩
  · rw [isCodeword, beq_iff_eq]
    exact syndrome_eq_zero_iff c r
  · by_contra hlt
    obtain ⟨m, hd, hd'⟩ := exists_between_of_distance_le_two (Nat.le_of_lt_succ (Nat.lt_of_not_le hlt))
    exact hne (Except.ok.inj ((decode7_eq_ok_iff.2 hd).symm.trans (decode7_eq_ok_iff.2 hd')))
  · unfold configCode
    cases c.parity <;> decide

/-! ### The blocks of a nibble -/

theorem decodesTo_iff {c : CodeDef} {r : Block} {d : Nibble} : decodesTo c r d = true ↔ decode7 c r = .ok d := by
  rw [decodesTo]
  split <;> simp [*]

theorem bitFlip_inj {r : Block} {p q : PosCode} : bitFlip r p = bitFlip r q ↔ p = q := by
  have hinj : ∀ p q : PosCode, onehot7 p = onehot7 q → p = q := by decide
  exact ⟨fun h => hinj p q (BitVec.xor_right_inj r |>.1 h), congrArg _⟩

/-- The numbers of the blocks that one flip, or none, makes of a block. -/
def flipNumbers (r : Block) : List Nat := (List.range 8).map fun i => (bitFlip r (BitVec.ofNat 3 i)).toNat

theorem mem_flipNumbers {r : Block} {n : Nat} : n ∈ flipNumbers r ↔ ∃ pos, (bitFlip r pos).toNat = n := by
  simp only [flipNumbers, List.mem_map, List.mem_range]
  refine ⟨fun ⟨i, _, hi⟩ => ⟨_, hi⟩, fun ⟨pos, hpos⟩ => ⟨pos.toNat, pos.isLt, ?_⟩⟩
  rwa [BitVec.ofNat_toNat, BitVec.setWidth_eq]

theorem flipNumbers_nodup (r : Block) : (flipNumbers r).Nodup := by
  refine List.Nodup.map_on (fun i hi j hj h => ?_) List.nodup_range
  have hpos := congrArg BitVec.toNat (bitFlip_inj.1 (BitVec.eq_of_toNat_eq h))
  simp only [BitVec.toNat_ofNat, List.mem_range] at hpos hi hj
  omega

/-- A nibble is the result of the codeword and its seven flips (R114). -/
theorem filter_decodesTo_perm (c : Config) (d : Nibble) :
    ((List.range 128).filter fun n => decodesTo (configCode c) (BitVec.ofNat 7 n) d).Perm
      (flipNumbers (encode4 (configCode c).g d)) := by
  refine (List.perm_ext_iff_of_nodup (List.nodup_range.filter _) (flipNumbers_nodup _)).2 fun n => ?_
  rw [List.mem_filter, List.mem_range, decodesTo_iff, decode7_eq_ok_iff_bitFlip, mem_flipNumbers]
  refine ⟨fun ⟨hn, pos, hpos⟩ => ⟨pos, ?_⟩, fun ⟨pos, hpos⟩ => ⟨hpos ▸ BitVec.isLt _, pos, ?_⟩⟩
  · rw [hpos, BitVec.toNat_ofNat, Nat.mod_eq_of_lt hn]
  · rw [← hpos, BitVec.ofNat_toNat, BitVec.setWidth_eq]

/-- Settles O18: the balls of radius 1 around the codewords are the decoder's preimages, of 8 blocks each. -/
theorem nearestCodewordDecoding : Obligations.NearestCodewordDecoding := by
  refine fun c => ⟨fun r => ?_, fun d => ?_⟩
  · obtain ⟨d, hd⟩ := decode7_total c r
    exact ⟨d, hd, decode7_eq_ok_iff.1 hd, fun d' hd' => Except.ok.inj ((decode7_eq_ok_iff.2 hd').symm.trans hd)⟩
  · rw [(filter_decodesTo_perm c d).length_eq, flipNumbers, List.length_map, List.length_range]

end Sys2Proof.Machine
end

section
/-!
The admissible parity blocks (spec/40_code_definition.md R90): what passing construction and the encoding of `1010` say of the
rows of a parity block, which are columns of its check matrix.
-/

namespace Sys2Proof.Machine

/-! ### The conditions of admissibility -/

theorem admissible_of_construct_ok {p : ParityBlock} {c : CodeDef} (h : construct p = .ok c) :
    admissible p = true ↔ encode4 c.g 0x5#4 = 0x55#7 := by
  unfold admissible
  simp only [h, beq_iff_eq]

theorem not_admissible_of_construct_error {p : ParityBlock} {f : FaultCode} (h : construct p = .error f) :
    ¬ admissible p = true := by
  unfold admissible
  simp only [h, Bool.false_eq_true, not_false_eq_true]

/-- Of the two construction checks only the second can fail (R91). -/
theorem admissible_iff {p : ParityBlock} :
    admissible p = true ↔ columnsDistinct (buildH p) = true ∧ encode4 (buildG p) 0x5#4 = 0x55#7 := by
  obtain ⟨-, hok, herr, -⟩ := constructionChecks
  by_cases hd : columnsDistinct (buildH p) = true
  · exact (admissible_of_construct_ok (hok p hd)).trans (and_iff_right hd).symm
  · exact iff_of_false (not_admissible_of_construct_error (herr p (Bool.eq_false_iff.2 hd))) fun ⟨h, _⟩ => hd h

/-! ### The columns of a built check matrix -/

/-- The codewords of a check matrix are the blocks orthogonal to its rows. -/
theorem syndrome_eq_zero_iff_parity {h : CheckMatrix} {r : Block} : syndrome h r = 0#3 ↔
    parity (r &&& h.h0) = false ∧ parity (r &&& h.h1) = false ∧ parity (r &&& h.h2) = false := by
  have hbits : ∀ a b c : Bit, (BitVec.ofBool c ++ BitVec.ofBool b ++ BitVec.ofBool a : Syndrome) = 0#3 ↔
      a = false ∧ b = false ∧ c = false := by decide
  exact hbits _ _ _

theorem syndrome_genRow (p : ParityBlock) {m : Nat} (hm : m < 4) : syndrome (buildH p) (genRow p m) = 0#3 :=
  syndrome_eq_zero_iff_parity.2 ⟨parity_genRow_and_buildHRow p hm (by decide), parity_genRow_and_buildHRow p hm (by decide),
    parity_genRow_and_buildHRow p hm (by decide)⟩

/-- A row of `G` is a codeword, so the column of its data bit is the syndrome of its parity part. -/
theorem column_buildH_data (p : ParityBlock) {m : Nat} (hm : m < 4) : column (buildH p) m = parityRow p m := by
  have hdata : ∀ i : Fin 4, errorAt (i.castLE (by decide)) = 0#3 ++ 1#4 <<< i.val := by decide
  have hrow : genRow p m = errorAt ⟨m, by omega⟩ ^^^ (parityRow p m ++ 0#4) := by
    have herror : errorAt ⟨m, by omega⟩ = 0#3 ++ 1#4 <<< m := hdata ⟨m, hm⟩
    rw [genRow, herror, BitVec.xor_append, BitVec.zero_xor, BitVec.xor_zero]
  have hzero := syndrome_genRow p hm
  rw [hrow, syndrome_xor, syndrome_errorAt, syndrome_buildH_append_zero] at hzero
  exact BitVec.xor_eq_zero_iff.1 hzero

theorem column_buildH_parity (p : ParityBlock) {k : Nat} (hk : k < 3) : column (buildH p) (4 + k) = 1#3 <<< k := by
  have hparity : ∀ i : Fin 3, errorAt (i.natAdd 4) = 1#3 <<< i.val ++ 0#4 := by decide
  have hcol := syndrome_errorAt (buildH p) (Fin.natAdd 4 ⟨k, hk⟩)
  rw [hparity, syndrome_buildH_append_zero] at hcol
  exact hcol.symm

/-- The columns of `[Pᵗ | I₃]`: the rows of `P`, then the unit columns (R82). -/
theorem columns_buildH (p : ParityBlock) :
    (List.range 7).map (column (buildH p)) = [p.p0, p.p1, p.p2, p.p3, 1#3, 2#3, 4#3] := by
  calc (List.range (4 + 3)).map (column (buildH p))
    _ = (List.range 4).map (parityRow p) ++ (List.range 3).map (1#3 <<< ·) := by
      rw [List.range_add, List.map_append, List.map_map,
        List.map_congr_left fun m hm => column_buildH_data p (List.mem_range.1 hm)]
      exact congrArg _ (List.map_congr_left fun k hk => column_buildH_parity p (List.mem_range.1 hk))
    _ = [p.p0, p.p1, p.p2, p.p3, 1#3, 2#3, 4#3] := rfl

/-! ### The four choices of rows -/

/-- The `1010` condition links the first and third rows: their XOR is the parity part of `1010101`. -/
theorem encode4_0x5_eq_iff (p : ParityBlock) : encode4 (buildG p) 0x5#4 = 0x55#7 ↔ p.p2 = p.p0 ^^^ 0b101#3 := by
  have hrows : encode4 (buildG p) 0x5#4 = (p.p0 ++ 0b0001#4) ^^^ (p.p2 ++ 0b0100#4) := by
    simp [encode4, scaleRow, buildG]
  have hsplit : ∀ a b : BitVec 3, (a ++ 0b0001#4) ^^^ (b ++ 0b0100#4) = 0x55#7 ↔ b = a ^^^ 0b101#3 := by decide
  rw [hrows]
  exact hsplit _ _

/-- Rows that differ from each other and from the unit columns have two bits or three; two that differ by `101` are `110` and
`011`, so `101` and `111` are left for the other two (R90). -/
theorem exists_parityRows_of_admissible {p : ParityBlock} (h : admissible p = true) : ∃ n, p = parityRows n := by
  obtain ⟨hd, henc⟩ := admissible_iff.1 h
  obtain ⟨hnodup, -⟩ := columnsDistinct_iff.1 hd
  have hzero : 0#3 ∉ (List.range 7).map (column (buildH p)) := by
    simpa using fun i hi => column_ne_zero hd hi
  have hp2 := (encode4_0x5_eq_iff p).1 henc
  rw [columns_buildH] at hnodup hzero
  obtain ⟨p0, p1, p2, p3⟩ := p
  obtain rfl : p2 = p0 ^^^ 0b101#3 := hp2
  have hrows : ∀ q0 q1 q3 : BitVec 3, (0#3 :: [q0, q1, q0 ^^^ 0b101#3, q3, 1#3, 2#3, 4#3]).Nodup →
      (q0 = 0b011#3 ∨ q0 = 0b110#3) ∧ (q1 = 0b101#3 ∧ q3 = 0b111#3 ∨ q1 = 0b111#3 ∧ q3 = 0b101#3) := by decide
  obtain ⟨rfl | rfl, ⟨rfl, rfl⟩ | ⟨rfl, rfl⟩⟩ := hrows p0 p1 p3 (List.nodup_cons.2 ⟨hzero, hnodup⟩)
  · exact ⟨.pA, rfl⟩
  · exact ⟨.pB, rfl⟩
  · exact ⟨.pC, rfl⟩
  · exact ⟨.pD, rfl⟩

/-- Settles O10: the two construction checks and the encoding of `1010` leave these four choices of rows. -/
theorem admissibleParityBlocks : Obligations.AdmissibleParityBlocks := by
  refine ⟨fun p => ⟨exists_parityRows_of_admissible, ?_⟩, fun n n' => ?_, by decide, by decide⟩
  · rintro ⟨n, rfl⟩
    obtain ⟨-, -, hcw⟩ := encoderParityEquations
    obtain ⟨hcw, -, -⟩ := hcw n
    exact admissible_iff.2 ⟨columnsDistinct_parityRows n, hcw⟩
  · cases n <;> cases n' <;> decide

end Sys2Proof.Machine
end

section
/-!
What the choice of the parity-check matrix and of the parity block shows (spec/41_decode.md R113): the decoder depends on the
check matrix through the set of codewords alone, and the parity blocks have different ones.
-/

namespace Sys2Proof.Machine

/-! ### Check matrices with the same codewords -/

/-- If two check matrices have the same codewords, a syndrome is the column of the same positions under both: the flip that
makes the block a codeword does not depend on the matrix. -/
theorem column_eq_syndrome_congr {h h' : CheckMatrix} (hker : ∀ r, syndrome h' r = 0#3 ↔ syndrome h r = 0#3) (r : Block)
    {i : Nat} (hi : i < 7) : column h' i = syndrome h' r ↔ column h i = syndrome h r := by
  have hcol (k : CheckMatrix) : syndrome k (errorAt ⟨i, hi⟩) = column k i := syndrome_errorAt k ⟨i, hi⟩
  have hflip (k : CheckMatrix) : column k i = syndrome k r ↔ syndrome k (errorAt ⟨i, hi⟩ ^^^ r) = 0#3 := by
    rw [syndrome_xor, BitVec.xor_eq_zero_iff, hcol]
  rw [hflip, hflip]
  exact hker _

theorem romRead_syndrome_congr {h h' : CheckMatrix} (hker : ∀ r, syndrome h' r = 0#3 ↔ syndrome h r = 0#3) (r : Block) :
    romRead (buildSynTable h') (syndrome h' r) = romRead (buildSynTable h) (syndrome h r) := by
  simp only [romRead_buildSynTable, column_eq_syndrome_congr hker r, Nat.reduceLT]

/-- Rebuilding the table from a check matrix with the same codewords changes no result. -/
theorem decode7_withCheckMatrix {c : Config} {h' : CheckMatrix}
    (hker : ∀ r, syndrome h' r = 0#3 ↔ syndrome (configCode c).h r = 0#3) (r : Block) :
    decode7 (withCheckMatrix (configCode c) h') r = decode7 (configCode c) r := by
  by_cases hs : syndrome (configCode c).h r = 0#3
  · have hs' : syndrome (withCheckMatrix (configCode c) h').h r = 0#3 := (hker r).2 hs
    rw [decode7_of_zero hs, decode7_of_zero hs']
  · have hs' : syndrome (withCheckMatrix (configCode c) h').h r ≠ 0#3 := mt (hker r).1 hs
    have hrom : romRead (withCheckMatrix (configCode c) h').synTable (syndrome (withCheckMatrix (configCode c) h').h r) =
        romRead (configCode c).synTable (syndrome (configCode c).h r) := romRead_syndrome_congr hker r
    rw [decode7_of_lookup hs, decode7_of_nonzero hs', hrom]
    exact if_neg (romRead_ne_posNone c.parity hs)

/-! ### A change of basis keeps the codewords -/

theorem parity_syndrome (sv : Syndrome) : parity sv = (sv.getLsbD 0 ^^ sv.getLsbD 1 ^^ sv.getLsbD 2) := by
  have hrange : List.range 3 = [0, 1, 2] := rfl
  simp [parity, hrange]

theorem parity_and_scaleRow (r : Block) (b : Bit) (row : Block) :
    parity (scaleRow b row &&& r) = (b && parity (r &&& row)) := by
  cases b
  · rw [scaleRow, if_neg Bool.false_ne_true, BitVec.zero_and, Bool.false_and]
    rfl
  · rw [scaleRow, if_pos rfl, BitVec.and_comm, Bool.true_and]

/-- A syndrome bit under a combination of the rows of `H` is the same combination of the syndrome bits. -/
theorem parity_and_combineRows (r : Block) (b : BitVec 3) (h : CheckMatrix) :
    parity (r &&& combineRows b h) = parity (b &&& syndrome h r) := by
  obtain ⟨h0, h1, h2⟩ := syndrome_getLsbD h r
  rw [BitVec.and_comm, combineRows, parity_xor_and, parity_xor_and, parity_and_scaleRow, parity_and_scaleRow,
    parity_and_scaleRow, parity_syndrome, BitVec.getLsbD_and, BitVec.getLsbD_and, BitVec.getLsbD_and, h0, h1, h2,
    Bool.xor_assoc]

theorem invertible_iff {a : Basis3} : a.invertible = true ↔
    a.a0 ≠ 0#3 ∧ a.a1 ≠ 0#3 ∧ a.a1 ≠ a.a0 ∧ a.a2 ≠ 0#3 ∧ a.a2 ≠ a.a0 ∧ a.a2 ≠ a.a1 ∧ a.a2 ≠ a.a0 ^^^ a.a1 := by
  simp only [Basis3.invertible, Bool.and_eq_true, bne_iff_ne, and_assoc]

/-- A nonzero syndrome is orthogonal to four vectors only: two that are nonzero and differ, their sum, and 0. -/
theorem eq_of_orthogonal_to_syndrome : ∀ sv : Syndrome, sv ≠ 0#3 →
    ∀ a, parity (a &&& sv) = false → a ≠ 0#3 → ∀ b, parity (b &&& sv) = false → b ≠ 0#3 → b ≠ a →
    ∀ v, parity (v &&& sv) = false → v = 0#3 ∨ v = a ∨ v = b ∨ v = a ^^^ b := by
  decide

/-- `A · H` and `H` have the same codewords: no nonzero syndrome is orthogonal to all rows of an invertible `A`. -/
theorem syndrome_changeBasis_eq_zero_iff {a : Basis3} (ha : a.invertible = true) (h : CheckMatrix) (r : Block) :
    syndrome (changeBasis a h) r = 0#3 ↔ syndrome h r = 0#3 := by
  have hrows : syndrome (changeBasis a h) r = 0#3 ↔ parity (a.a0 &&& syndrome h r) = false ∧
      parity (a.a1 &&& syndrome h r) = false ∧ parity (a.a2 &&& syndrome h r) = false := by
    simp only [syndrome_eq_zero_iff_parity, changeBasis, parity_and_combineRows]
  rw [hrows]
  refine ⟨fun ⟨h0, h1, h2⟩ => ?_, fun hs => ?_⟩
  · obtain ⟨ha0, ha1, ha10, ha2, ha20, ha21, hasum⟩ := invertible_iff.1 ha
    by_contra hs
    obtain hz | hz | hz | hz := eq_of_orthogonal_to_syndrome _ hs _ h0 ha0 _ h1 ha1 ha10 _ h2
    · exact ha2 hz
    · exact ha20 hz
    · exact ha21 hz
    · exact hasum hz
  · rw [hs, BitVec.and_zero, BitVec.and_zero, BitVec.and_zero]
    exact ⟨rfl, rfl, rfl⟩

theorem syndrome_reverseRows_eq_zero_iff (h : CheckMatrix) (r : Block) :
    syndrome (reverseRows h) r = 0#3 ↔ syndrome h r = 0#3 := by
  rw [syndrome_eq_zero_iff_parity, syndrome_eq_zero_iff_parity, reverseRows]
  tauto

/-! ### Different parity blocks -/

/-- Under different parity blocks the codewords of `0x3` differ from each other; a flip of a data bit of one keeps it away
from the other. -/
theorem distance_flipped_codeword {n n' : ParityP} : n ≠ n' →
    ¬ distance (encode4 (buildG (parityRows n)) 0x3#4 ^^^ errorAt 0) (encode4 (buildG (parityRows n')) 0x3#4) ≤ 1 := by
  cases n <;> cases n' <;> decide

theorem exists_decode7_ne {n n' : ParityP} (h : n ≠ n') :
    ∃ r, decode7 (buildCode (parityRows n)) r ≠ decode7 (buildCode (parityRows n')) r := by
  have hn := decode7_single_error ⟨n, 1, 1⟩ 0x3#4 0
  have hn' := mt (decode7_eq_ok_iff (c := ⟨n', 1, 1⟩)).1 (distance_flipped_codeword h)
  exact ⟨_, fun he => hn' (he.symm.trans hn)⟩

/-- Settles O19: the matrices of the first two clauses have the codewords of `H`. -/
theorem decodeInvariantUnderBasis : Obligations.DecodeInvariantUnderBasis :=
  ⟨fun _ _ r ha => decode7_withCheckMatrix (syndrome_changeBasis_eq_zero_iff ha _) r,
    fun _ r => decode7_withCheckMatrix (syndrome_reverseRows_eq_zero_iff _) r, fun _ _ h => exists_decode7_ne h⟩

end Sys2Proof.Machine
end

section
/-!
Errors in an encoded stream (spec/42_stream.md R138): each block decodes by itself, so at most one flip in each is corrected.
-/

namespace Sys2Proof.Machine

/-! ### The blocks of a stream -/

/-- Streams of one length whose blocks decode alike have the same nibbles. -/
theorem decodeBlocks_congr {c : CodeDef} {bits bits' : List Bit} (hlen : bits'.length = bits.length)
    (h : ∀ b < bits.length / 7, decode7 c (streamBlock bits' b) = decode7 c (streamBlock bits b)) :
    decodeBlocks c bits' = decodeBlocks c bits := by
  have hmap (bits : List Bit) : decodeBlocks c bits =
      ((List.range (bits.length / 7)).map fun b => decode7 c (streamBlock bits b)).mapM id := by
    rw [List.mapM_map]
    rfl
  rw [hmap, hmap, hlen, List.map_congr_left fun b hb => h b (List.mem_range.1 hb)]

theorem decodeStream_map_toNat_congr {c : CodeDef} {bits bits' : List Bit} (h : decodeBlocks c bits' = decodeBlocks c bits) :
    decodeStream c (bits'.map Bool.toNat) = decodeStream c (bits.map Bool.toNat) := by
  rw [decodeStream, decodeStream, validate_map_toNat, validate_map_toNat]
  exact congrArg (· >>= fun ds => pure (ds.flatMap unpackBits)) h

/-- What an output of EncodeStream is made of: the codewords of the padded message. -/
theorem encodeStream_eq_ok {g : GenMatrix} {m : List Symbol} {e : List Bit} (h : encodeStream g m = .ok e) :
    e = codewords g (nibbles (paddedBits m)) := by
  obtain ⟨bits, hbits, -⟩ := exists_ok_of_bind_eq_ok h
  obtain ⟨hbin, -⟩ := validate_eq_ok.1 hbits
  exact Except.ok.inj (h.symm.trans (encodeStream_ok g hbin))

theorem exists_streamBlock_codewords (g : GenMatrix) {ds : List Nibble} {b : Nat} (hb : b < (codewords g ds).length / 7) :
    ∃ d, streamBlock (codewords g ds) b = encode4 g d := by
  have hlt : b < ds.length := by rwa [codewords_length, Nat.mul_div_cancel_left _ (by decide)] at hb
  have hget : (ds.map (encode4 g))[b]? = some (encode4 g ds[b]) := by
    rw [List.getElem?_map, List.getElem?_eq_getElem hlt, Option.map_some]
  have hwords : codewords g ds = (ds.map (encode4 g)).flatMap unpackBits := (List.flatMap_map _ _ _).symm
  exact ⟨ds[b], by rw [streamBlock, hwords, take_drop_flatMap_unpackBits hget, packBits_unpackBits]⟩

/-! ### Errors -/

theorem distance_le_one_of_differ_only_at {r r' : Block} (j : Nat)
    (h : ∀ i < 7, r.getLsbD i ≠ r'.getLsbD i → i = j) : distance r r' ≤ 1 := by
  refine (List.subperm_of_subset (l₂ := [j]) (List.nodup_range.filter _) fun i hi => ?_).length_le
  obtain ⟨hmem, hne⟩ := List.mem_filter.1 hi
  exact List.mem_singleton.2 (h i (List.mem_range.1 hmem) (bne_iff_ne.1 hne))

theorem streamBlock_getLsbD (bits : List Bit) (b : Nat) {i : Nat} (hi : i < 7) :
    (streamBlock bits b).getLsbD i = bits.getD (7 * b + i) false := by
  rw [streamBlock, packBits_getLsbD, decide_eq_true hi, Bool.true_and, List.getD_eq_getElem?_getD,
    List.getElem?_take_of_lt hi, List.getElem?_drop, List.getD_eq_getElem?_getD]

/-- Setting one bit of a stream changes at most one bit of any block. -/
theorem distance_streamBlock_set_le_one (bits : List Bit) (k : Nat) (v : Bit) (b : Nat) :
    distance (streamBlock bits b) (streamBlock (bits.set k v) b) ≤ 1 := by
  refine distance_le_one_of_differ_only_at (k - 7 * b) fun i hi hne => ?_
  rw [streamBlock_getLsbD _ _ hi, streamBlock_getLsbD _ _ hi, List.getD_eq_getElem?_getD, List.getD_eq_getElem?_getD] at hne
  have hk : k = 7 * b + i := by
    by_contra hk
    exact hne (by rw [List.getElem?_set_ne hk])
  omega

/-- A block of an encoded stream with at most one bit flipped decodes as without. -/
theorem decode7_of_distance_codeword {c : Config} {d : Nibble} {r : Block}
    (h : distance (encode4 (configCode c).g d) r ≤ 1) :
    decode7 (configCode c) r = decode7 (configCode c) (encode4 (configCode c).g d) := by
  rw [decode7_codeword, decode7_eq_ok_iff, distance_comm]
  exact h

/-- At most one flip in each block of an encoded stream changes nothing. -/
theorem decodeStream_of_block_distances {c : Config} {m : List Symbol} {e e' : List Bit}
    (he : encodeStream (configCode c).g m = .ok e) (hlen : e'.length = e.length)
    (h : ∀ b < e.length / 7, distance (streamBlock e b) (streamBlock e' b) ≤ 1) :
    decodeStream (configCode c) (e'.map Bool.toNat) = decodeStream (configCode c) (e.map Bool.toNat) := by
  obtain rfl := encodeStream_eq_ok he
  refine decodeStream_map_toNat_congr (decodeBlocks_congr hlen fun b hb => ?_)
  obtain ⟨d, hd⟩ := exists_streamBlock_codewords _ hb
  have hb' := h b hb
  rw [hd] at hb' ⊢
  exact decode7_of_distance_codeword hb'

/-- Settles O41: one flip anywhere is at most one in each block. -/
theorem blockIndependence : Obligations.BlockIndependence :=
  fun _ _ e he => ⟨fun _ hlen h => decodeStream_of_block_distances he hlen h, fun k _ =>
    decodeStream_of_block_distances he List.length_set fun b _ => distance_streamBlock_set_le_one e k _ b⟩

end Sys2Proof.Machine
end
